-- ==== Sys2Proof/Word.lean ====
section
/-!
DEFINITION. The word types of the engine: bytes of buffers and datagrams, the 16-bit fields and bus offsets, and the
32-bit bus words and MT words (00_scope R8 to R11). Every value is unsigned.
-/
namespace Sys2Proof

/-- One byte of a buffer or of a datagram (00_scope R9). -/
abbrev Byte := BitVec 8

/-- A 16-bit quantity: a checksum, `opcode_flags`, a length register. -/
abbrev Half := BitVec 16

/-- A 32-bit bus word or MT state word. -/
abbrev Word := BitVec 32

/-- A byte offset from the engine's base address (20_memory R60: addresses are 16 bits). -/
abbrev Offset := BitVec 16

end Sys2Proof
end

