-- ==== Sys2Proof/Syntax.lean ====
section
/-!
DEFINITION. The commands of the engine, one constructor per row of spec/opcode_table.json (30_encoding R91).
-/
namespace Sys2Proof

/-- The buffer CKSUM reads, its SEL field (30_encoding R90): 0 = RXBUF, 1 = TXBUF. -/
inductive Sel where
  | rx
  | tx
  deriving DecidableEq, Repr

/-- A command (30_encoding R91). No command takes a register or an address operand (R95); LEN is a byte count, a
natural number that the 16-bit field must hold (`Instr.wellFormed`). -/
inductive Instr where
  /-- NOP, 44_control R240. -/
  | nop
  /-- INIT, 44_control R241. -/
  | init
  /-- CKSUM with SEL, ZF and LEN, 40_checksum R136. -/
  | cksum (sel : Sel) (zf : Bool) (len : Nat)
  /-- SEED, 41_prng R170. -/
  | seed
  /-- NEXT, 41_prng R171. -/
  | next
  /-- RAND with LEN, 41_prng R172. -/
  | rand (len : Nat)
  /-- DECODE, 42_decoder R197. -/
  | decode
  /-- REPLY, 43_encoder R213. -/
  | reply
  /-- PROCESS, 43_encoder R221. -/
  | process
  deriving DecidableEq, Repr

end Sys2Proof
end

