-- ==== Sys2Proof/WellFormed.lean ====
section
/-!
DEFINITION. Which commands have an encoding: LEN is the 16-bit field `w[31:16]` (30_encoding R90, R95).
A RAND of more than 64 bytes is well formed: it is encodable and ends in LEN_RANGE (41_prng R172).
-/
namespace Sys2Proof

/-- LEN fits its 16-bit field (30_encoding R95). -/
def lenFits (n : Nat) : Bool := n < 65536

/-- The command can be written as one CMD32 word. -/
def Instr.wellFormed : Instr → Bool
  | .nop => true
  | .init => true
  | .cksum _ _ n => lenFits n
  | .seed => true
  | .next => true
  | .rand n => lenFits n
  | .decode => true
  | .reply => true
  | .process => true

end Sys2Proof
end

