-- ==== Sys2Proof/Decode.lean ====
section
/-!
DEFINITION. The command word (30_encoding R90 to R95): the match and mask table, the decoder, which is total and
rejects by name, and the encoder written from the field layout.
-/
namespace Sys2Proof

/-- A row of 30_encoding R92: the word `w` selects it when `w &&& mask = pattern`. -/
structure EncodingRow where
  mnemonic : String
  pattern : Word
  mask : Word
  deriving DecidableEq, Repr

def EncodingRow.matches (r : EncodingRow) (w : Word) : Bool := w &&& r.mask == r.pattern

def nopRow : EncodingRow := ⟨"NOP", 0x00000000, 0xFFFFFFFF⟩
def initRow : EncodingRow := ⟨"INIT", 0x00000001, 0xFFFFFFFF⟩
def cksumRow : EncodingRow := ⟨"CKSUM", 0x00000002, 0x0000FCFF⟩
def seedRow : EncodingRow := ⟨"SEED", 0x00000003, 0xFFFFFFFF⟩
def nextRow : EncodingRow := ⟨"NEXT", 0x00000004, 0xFFFFFFFF⟩
def randRow : EncodingRow := ⟨"RAND", 0x00000005, 0x0000FFFF⟩
def decodeRow : EncodingRow := ⟨"DECODE", 0x00000006, 0xFFFFFFFF⟩
def replyRow : EncodingRow := ⟨"REPLY", 0x00000007, 0xFFFFFFFF⟩
def processRow : EncodingRow := ⟨"PROCESS", 0x00000008, 0xFFFFFFFF⟩

/-- The table of 30_encoding R92, in its order. -/
def encodingRows : List EncodingRow :=
  [nopRow, initRow, cksumRow, seedRow, nextRow, randRow, decodeRow, replyRow, processRow]

/-- The row of a command. -/
def Instr.row : Instr → EncodingRow
  | .nop => nopRow
  | .init => initRow
  | .cksum _ _ _ => cksumRow
  | .seed => seedRow
  | .next => nextRow
  | .rand _ => randRow
  | .decode => decodeRow
  | .reply => replyRow
  | .process => processRow

/-- OP, bits 7:0 (30_encoding R90). -/
def opField (w : Word) : Byte := w.extractLsb' 0 8

/-- SEL, bit 8 (30_encoding R95). -/
def selField (w : Word) : Sel := if w.getLsbD 8 then .tx else .rx

/-- ZF, bit 9 (30_encoding R95). -/
def zfField (w : Word) : Bool := w.getLsbD 9

/-- LEN, bits 31:16, zero-extended (30_encoding R95). -/
def lenField (w : Word) : Nat := (w.extractLsb' 16 16).toNat

/-- Why a word is no command (30_encoding R93, R94). The engine raises ILLEGAL_CMD for both. -/
inductive IllegalWord where
  /-- OP is none of 0x00 to 0x08 (30_encoding R91). -/
  | reservedOp
  /-- OP is a command's, and a bit outside the row's free fields is set (30_encoding R93). -/
  | nonzeroUnusedBits
  deriving DecidableEq, Repr

/-- The command a word encodes: the first row it matches (30_encoding R92), or why it matches none. -/
def decodeWord (w : Word) : Except IllegalWord Instr :=
  if nopRow.matches w then .ok .nop
  else if initRow.matches w then .ok .init
  else if cksumRow.matches w then .ok (.cksum (selField w) (zfField w) (lenField w))
  else if seedRow.matches w then .ok .seed
  else if nextRow.matches w then .ok .next
  else if randRow.matches w then .ok (.rand (lenField w))
  else if decodeRow.matches w then .ok .decode
  else if replyRow.matches w then .ok .reply
  else if processRow.matches w then .ok .process
  else if (opField w).toNat ≤ 8 then .error .nonzeroUnusedBits
  else .error .reservedOp

/-- The command read from an instruction of `nbits` bits whose value is `w`: CMD32 is one word, so the bits above
`nbits` are zero (30_encoding R90). -/
def decodeTableWord (nbits w : Nat) : Option Instr :=
  match decodeWord (BitVec.ofNat 32 (w % 2 ^ nbits)) with
  | .ok i => some i
  | .error _ => none

/-- The value of SEL (30_encoding R90). -/
def Sel.bit : Sel → Bool
  | .rx => false
  | .tx => true

/-- A CMD32 word from its fields: LEN, ZF, SEL, OP, and RES = 0 (30_encoding R90, R98). -/
def cmd32 (op : Byte) (sel zf : Bool) (len : Nat) : Word :=
  (BitVec.ofNat 32 len <<< 16) ||| ((BitVec.ofBool zf).setWidth 32 <<< 9) |||
    ((BitVec.ofBool sel).setWidth 32 <<< 8) ||| op.setWidth 32

/-- The word of a well-formed command (30_encoding R90, R91, R93: fields a command does not use are zero). -/
def encode : Instr → Word
  | .nop => cmd32 0x00 false false 0
  | .init => cmd32 0x01 false false 0
  | .cksum sel zf n => cmd32 0x02 sel.bit zf n
  | .seed => cmd32 0x03 false false 0
  | .next => cmd32 0x04 false false 0
  | .rand n => cmd32 0x05 false false n
  | .decode => cmd32 0x06 false false 0
  | .reply => cmd32 0x07 false false 0
  | .process => cmd32 0x08 false false 0

end Sys2Proof
end

