-- ==== Sys2Proof/Config.lean ====
section
/-!
DEFINITION. What one instance of the engine fixes (the OPEN parameters of 00_scope R6) and the free values the spec
leaves open (its draws, 00_scope R5). Each is an opaque constant, so a claim holds whatever the value is.
The fixed parameters of R6 (TX_SIZE, HDR_LEN, MT_N, MT_M, BANNER_CAP, RND_CAP) stand where they are used.
-/
namespace Sys2Proof.Config

/-- Which of the values 00_scope R6 allows RX_CAP has: the multiples of 4 from 12 to 32768 are `4 * k + 12` for
`k < 8190`, so every value of this constant is a legal RX_CAP and no other is. OPEN (92 D17). -/
opaque rxCapChoice : Fin 8190

/-- RX_CAP: the size of RXBUF in bytes (00_scope R6, 92 D17). -/
def rxCap : Nat := 4 * rxCapChoice.val + 12

/-- HAS_TRNG: a hardware entropy source is present (00_scope R6, 92 D12). OPEN. -/
opaque hasTrng : Bool

/-- ENGINE_BASE: the platform address of offset 0 (20_memory R60, 92 D2). OPEN. -/
opaque engineBase : Nat

/-- The platform address of an offset. The model itself works on offsets, as the spec's host syntax does (30_encoding R97). -/
def platformAddress (a : Offset) : Nat := engineBase + a.toNat

/-- `time_now` at the draw of that number (10_state R47, 41_prng R156). A free value. -/
opaque timeNow : Nat → Word

/-- `entropy_byte` at the draw of that number (10_state R47, 41_prng R161). A free value. -/
opaque entropyByte : Nat → Byte

/-- What a host read of command-written state returns while `busy = 1`, at the draw of that number (70 R306). A free value. -/
opaque busyRead : Nat → Word

/-- What the byte of a buffer at that window offset holds after the reset of that number, until it is written
(10_state R41, 70 R301). A free value. -/
opaque powerOnByte : Nat → Nat → Byte

/-- What `mt[i]` holds after the reset of that number, until the MT is seeded (10_state R42, 70 R301). A free value. -/
opaque powerOnWord : Nat → Nat → Word

end Sys2Proof.Config
end

