-- ==== Sys2Proof/Machine/State.lean ====
section
/-!
DEFINITION. The state of the engine (10_state R20), of the host that drives it (30_encoding R97) and of the schedule
that orders their steps (20_memory R75); the reset state (70 R301). Plain data throughout.
-/
namespace Sys2Proof.Machine

/-- Why a step of the machine stops. It has no constructor: no step stops. A command ends by `finish` or by an error
code (70 R303, 42_decoder R198), and a breach of the host's contract is recorded in `State.fault`, with no other
effect (60 R270). Safe: there is nothing a claim could miss. -/
inductive Fault where
  deriving DecidableEq, Repr

/-- A command with no meaning. -/
inductive Refusal where
  /-- Raised only by an arm of `exec` whose command has no meaning yet; no arm is left so. Safe: the run stops. -/
  | notModelled (mnemonic : String)
  deriving DecidableEq, Repr

/-- Error codes, STATUS.ERRCODE (60 R262). Codes 7 to 15 are never raised (93 U10), so they have no constructor. -/
inductive ErrCode where
  | none
  | illegalCmd
  | busyOverrun
  | lenRange
  | notInit
  | config
  | alreadyInit
  deriving DecidableEq, Repr

/-- The reasons of the model-only list `fault` (60 R270). -/
inductive HostFault where
  /-- A host access with `a[1:0] != 0` (20_memory R63). -/
  | misaligned
  /-- A host write while `busy = 1` to any address other than CMD, STATUS or IRQ_EN (70 R305). -/
  | writeWhileBusy
  deriving DecidableEq, Repr

/-- Why the decoder discarded a datagram (42_decoder R191). -/
inductive Discard where
  | short
  | magic
  | checksum
  deriving DecidableEq, Repr

/-- DEC_RESULT (10_state R36). `reason` is `none` for REASON = 0: accepted, or no decode since reset. -/
structure DecResult where
  acc : Bool
  rr : Bool
  ckp : Bool
  reason : Option Discard
  deriving DecidableEq, Repr

/-- The MT19937 state (10_state R42, R43). The cursor's type is its range [0, 624] (41_prng R150). -/
structure Prng where
  mt : Vector Word 624
  cursor : Fin 625
  seeded : Bool
  deriving DecidableEq, Repr

/-- The bytes of the four buffers that something has written, by window offset (20_memory R62, R65), offsets strictly
rising. An unlisted offset holds no value here: it reads as the free value of `State.unwrittenByte`. -/
abbrev Memory := List Host.Cell

/-- The one canonical form of a memory: offsets strictly rising. -/
abbrev Memory.wf (m : Memory) : Prop := (m.map Prod.fst).Pairwise (· < ·)

/-- A statement of a host program (30_encoding R97); labels are positions. -/
inductive HostStmt where
  /-- `WR off, imm32`. -/
  | wr (off : Offset) (imm : Word)
  /-- `RD off`. -/
  | rd (off : Offset)
  /-- `JF off, mask, val, label`. -/
  | jf (off : Offset) (mask val : Word) (target : Nat)
  /-- `J label`. -/
  | j (target : Nat)
  /-- `HALT`. -/
  | halt
  deriving DecidableEq, Repr

/-- The host: its program, its position in it, and the accumulator `h` (10_state R21, 30_encoding R97). -/
structure HostAgent where
  prog : List HostStmt
  pos : Nat
  acc : Word
  deriving DecidableEq, Repr

/-- Who makes a step: the host, the engine (20_memory R75), or the platform releasing reset (70 R300). -/
inductive Move where
  | host
  | engine
  | reset
  deriving DecidableEq, Repr

/-- The state of the system. Everything down to `fault` is the engine's (10_state R20). -/
structure State where
  /-- STATUS.DONE (10_state R25). -/
  done : Bool
  /-- STATUS.ERR (10_state R25). -/
  err : Bool
  /-- STATUS.ERRCODE (10_state R25, 60 R262). -/
  errcode : ErrCode
  /-- STATUS.TXV (10_state R25, 43_encoder R212). -/
  txv : Bool
  /-- The sequencer bit `busy` (10_state R45). -/
  busy : Bool
  /-- The latched command word (10_state R45). -/
  pending : Word
  /-- `initd` (10_state R44). -/
  initd : Bool
  /-- `src_hw` (10_state R44). -/
  srcHw : Bool
  /-- IRQ_EN.DONE_IE (10_state R26). -/
  doneIe : Bool
  /-- IRQ_EN.ERR_IE (10_state R26). -/
  errIe : Bool
  /-- CONFIG.FORCE_MT (10_state R27). -/
  forceMt : Bool
  /-- RX_LEN (10_state R29). -/
  rxLen : Half
  /-- BANNER_LEN (10_state R30). -/
  bannerLen : Byte
  /-- CK_RESULT (10_state R31). -/
  ckResult : Half
  /-- MT_SEED (10_state R32). -/
  mtSeed : Word
  /-- MT_OUT (10_state R33). -/
  mtOut : Word
  /-- RND_LEN (10_state R35). -/
  rndLen : BitVec 7
  /-- DEC_RESULT (10_state R36). -/
  decResult : DecResult
  /-- DEC_FLAGS (10_state R37). -/
  decFlags : Half
  /-- MSGID_HI (10_state R38). -/
  msgidHi : Word
  /-- MSGID_LO (10_state R39). -/
  msgidLo : Half
  /-- The PRNG state (10_state R42, R43). -/
  prng : Prng
  /-- RXBUF, TXBUF, BANNER and RNDBUF (10_state R41). -/
  mem : Memory
  /-- The recorded host faults, oldest first (10_state R46). -/
  fault : List HostFault
  /-- The host's own state (30_encoding R97). -/
  host : HostAgent
  /-- The model's own: the moves of the next steps. When it is empty, `nextMove` says who moves. -/
  sched : List Move
  /-- The model's own: the number of the next draw (00_scope R5). -/
  draws : Nat
  /-- The model's own: how often reset was released again, which numbers the reset contents. -/
  resets : Nat
  deriving DecidableEq, Repr

/-- The PRNG state after the reset of that number: every word any value, cursor 624, not seeded (70 R301). -/
def Prng.atReset (n : Nat) : Prng where
  mt := Vector.ofFn fun i => Config.powerOnWord n i
  cursor := 624
  seeded := false

/-- Reset values (70 R301) at the reset of that number, with the given host, schedule and draw number, which reset
does not touch: they are no state of the engine. -/
def State.atReset (n : Nat) (host : HostAgent) (sched : List Move) (draws : Nat) : State where
  done := false
  err := false
  errcode := .none
  txv := false
  busy := false
  pending := 0
  initd := false
  srcHw := false
  doneIe := false
  errIe := false
  forceMt := false
  rxLen := 0
  bannerLen := 0
  ckResult := 0
  mtSeed := 0
  mtOut := 0
  rndLen := 0
  decResult := ⟨false, false, false, none⟩
  decFlags := 0
  msgidHi := 0
  msgidLo := 0
  prng := Prng.atReset n
  mem := []
  fault := []
  host := host
  sched := sched
  draws := draws
  resets := n

/-- The machine right after the first reset (70 R301, R302): idle, with no host program. -/
def State.reset : State := State.atReset 0 ⟨[], 0, 0⟩ [] 0

end Sys2Proof.Machine
end

