-- ==== Sys2Proof/Machine/Ops.lean ====
section
/-!
DEFINITION. The named operations everything else is written over: byte-sequence helpers (00_scope R9), memory, and the
ends of a command: `finish` (60 R260), `raiseError` (60 R261), which is all there is of taking an exception (60 R268),
and the host's acknowledgement, which is all there is of returning from one (60 R271).
-/
namespace Sys2Proof.Machine

/-! ### Byte sequences (00_scope R9) -/

/-- `B[i]`. Every caller has checked the length (20_memory R71). -/
def byteAt (B : List Byte) (i : Nat) : Byte := B.getD i 0

/-- `BE16(B, i)`. -/
def be16 (B : List Byte) (i : Nat) : Half :=
  BitVec.ofNat 16 ((byteAt B i).toNat * 256 + (byteAt B (i + 1)).toNat)

/-- `BE32(B, i)`. -/
def be32 (B : List Byte) (i : Nat) : Word :=
  BitVec.ofNat 32 ((byteAt B i).toNat * 2 ^ 24 + (byteAt B (i + 1)).toNat * 2 ^ 16 +
    (byteAt B (i + 2)).toNat * 2 ^ 8 + (byteAt B (i + 3)).toNat)

/-- `B[i..j)`. -/
def slice (B : List Byte) (i j : Nat) : List Byte := (B.drop i).take (j - i)

/-- `bytesBE16(v)`. -/
def bytesBE16 (v : Half) : List Byte := [v.extractLsb' 8 8, v.extractLsb' 0 8]

/-- `bytesBE32(v)`. -/
def bytesBE32 (v : Word) : List Byte :=
  [v.extractLsb' 24 8, v.extractLsb' 16 8, v.extractLsb' 8 8, v.extractLsb' 0 8]

/-- `zeros(n)`. -/
def zeros (n : Nat) : List Byte := List.replicate n 0

/-! ### Memory: the four buffers, by window offset (20_memory R62, R65) -/

/-- The written byte at an offset, if there is one. -/
def Memory.find (m : Memory) (a : Nat) : Option Byte :=
  match m with
  | [] => none
  | (a', b) :: t => if a' = a then some b else Memory.find t a

/-- Write one byte, keeping the offsets strictly rising. -/
def Memory.writeByte (m : Memory) (a : Nat) (b : Byte) : Memory :=
  match m with
  | [] => [(a, b)]
  | (a', b') :: t =>
    if a < a' then (a, b) :: (a', b') :: t
    else if a' = a then (a, b) :: t
    else (a', b') :: Memory.writeByte t a b

/-- Write a byte sequence at consecutive offsets. -/
def Memory.writeBytes (m : Memory) (a : Nat) : List Byte → Memory
  | [] => m
  | b :: bs => Memory.writeBytes (Memory.writeByte m a b) (a + 1) bs

/-- What a buffer byte that nothing has written since reset reads as: any value (10_state R41, 70 R301). -/
def State.unwrittenByte (s : State) (a : Nat) : Byte := Config.powerOnByte s.resets a

/-- One byte of a buffer. -/
def State.readByte (s : State) (a : Nat) : Byte := (Memory.find s.mem a).getD (s.unwrittenByte a)

/-- `n` bytes of a buffer, from an offset. -/
def State.readBytes (s : State) (a n : Nat) : List Byte := (List.range n).map fun i => s.readByte (a + i)

/-- A window word: four bytes, big-endian (20_memory R65). -/
def State.readWord (s : State) (a : Nat) : Word := be32 (s.readBytes a 4) 0

/-- Write a byte sequence into a buffer. -/
def State.writeBytes (s : State) (a : Nat) (bs : List Byte) : State := { s with mem := Memory.writeBytes s.mem a bs }

/-- Write a window word, big-endian (20_memory R65). -/
def State.writeWord (s : State) (a : Nat) (v : Word) : State := s.writeBytes a (bytesBE32 v)

/-! ### The ends of a command -/

/-- `finish()` (60 R260). -/
def State.finish (s : State) : State := { s with done := true, busy := false }

/-- `raise CmdError(code)` (60 R261): taking an exception, whole. Nothing is saved and no control transfers (60 R268). -/
def State.raiseError (code : ErrCode) (s : State) : State := { s with err := true, errcode := code, busy := false }

/-- A CMD write while `busy = 1` (60 R264): the word is dropped, the executing command goes on. -/
def State.overrun (s : State) : State := { s with err := true, errcode := .busyOverrun }

/-- A host write of `v` to STATUS (10_state R25), in its order. Clearing the pending bits is the whole return from an
error or an interrupt; it restores nothing (60 R271). -/
def State.acknowledge (v : Word) (s : State) : State :=
  let s := if v.getLsbD 1 then { s with done := false } else s
  let s := if v.getLsbD 5 then { s with txv := false } else s
  if v.getLsbD 2 then { s with err := false, errcode := .none } else s

/-- Record a host fault (60 R270); no step removes it. -/
def State.recordFault (r : HostFault) (s : State) : State := { s with fault := s.fault ++ [r] }

/-- The next draw is a fresh one. -/
def State.countDraws (n : Nat) (s : State) : State := { s with draws := s.draws + n }

/-- A length is greater than a capacity, the failing condition of the length and configuration checks (60 R263). -/
def exceeds (n cap : Nat) : Bool := cap < n

/-- The first check that fails (60 R263). A check is the condition of failing and the code it raises. -/
def firstFailure : List (Bool × ErrCode) → Option ErrCode
  | [] => none
  | (fails, code) :: rest => if fails then some code else firstFailure rest

/-- A command: its checks in order, the first failing one raising its error and nothing else happening (60 R261, R263);
then its effect and `finish()` (60 R260). -/
def runCommand (checks : List (Bool × ErrCode)) (effect : State → State) (s : State) :
    Host.Outcome State Fault Refusal :=
  match firstFailure checks with
  | some code => .next (s.raiseError code)
  | none => .next (effect s).finish

end Sys2Proof.Machine
end

