-- ==== Sys2Proof/Machine/Operands.lean ====
section
/-!
DEFINITION. Where operands live: the register map (10_state R23), the offset map (20_memory R62), the buffers, and the
operands the commands take from them (30_encoding R95).
-/
namespace Sys2Proof.Machine

/-! ### Buffers -/

/-- The four byte buffers (10_state R41). -/
inductive Buffer where
  | rxbuf
  | txbuf
  | banner
  | rndbuf
  deriving DecidableEq, Repr

/-- TX_SIZE (00_scope R6). -/
def txSize : Nat := 128

/-- BANNER_CAP (00_scope R6). -/
def bannerCap : Nat := 100

/-- RND_CAP (00_scope R6). -/
def rndCap : Nat := 64

/-- The window offset of a buffer (20_memory R62). -/
def Buffer.base : Buffer → Nat
  | .rxbuf => 0x8000
  | .txbuf => 0x0100
  | .banner => 0x0200
  | .rndbuf => 0x0300

/-- The size of a buffer in bytes (10_state R41). -/
def Buffer.size : Buffer → Nat
  | .rxbuf => Config.rxCap
  | .txbuf => txSize
  | .banner => bannerCap
  | .rndbuf => rndCap

/-- The offset lies in the buffer's window (20_memory R62). -/
def Buffer.contains (b : Buffer) (a : Nat) : Bool := b.base ≤ a && a < b.base + b.size

/-- `X[0..n)`. -/
def State.prefixOf (s : State) (b : Buffer) (n : Nat) : List Byte := s.readBytes b.base n

/-- The buffer SEL selects (40_checksum R136). -/
def selected : Sel → Buffer
  | .rx => .rxbuf
  | .tx => .txbuf

/-- The zero-field view `zf(B)`: bytes 2 and 3 read as zero where they exist (40_checksum R134). -/
def zeroField (B : List Byte) : List Byte := (B.set 2 0).set 3 0

/-- The operand of CKSUM: `n` bytes of the selected buffer, through the zero-field view if ZF = 1 (40_checksum R136). -/
def cksumOperand (sel : Sel) (zf : Bool) (n : Nat) (s : State) : List Byte :=
  let B := s.prefixOf (selected sel) n
  if zf then zeroField B else B

/-- The datagram `RXBUF[0..RX_LEN)` (42_decoder R190). -/
def datagram (s : State) : List Byte := s.prefixOf .rxbuf s.rxLen.toNat

/-- The message id in MSGID_HI and MSGID_LO (10_state R39, 43_encoder R211). -/
def messageId (s : State) : List Byte := bytesBE32 s.msgidHi ++ bytesBE16 s.msgidLo

/-- The banner `BANNER[0..BANNER_LEN)` (43_encoder R211). -/
def bannerBytes (s : State) : List Byte := s.prefixOf .banner s.bannerLen.toNat

/-! ### The offset map -/

/-- The host registers (10_state R23). -/
inductive Reg where
  | cmd
  | status
  | irqEn
  | config
  | param
  | rxLen
  | bannerLen
  | ckResult
  | mtSeed
  | mtOut
  | mtCursor
  | rndLen
  | decResult
  | decFlags
  | msgidHi
  | msgidLo
  deriving DecidableEq, Repr

/-- The offset of a register (10_state R23). -/
def Reg.offset : Reg → Offset
  | .cmd => 0x000
  | .status => 0x004
  | .irqEn => 0x008
  | .config => 0x00C
  | .param => 0x010
  | .rxLen => 0x014
  | .bannerLen => 0x018
  | .ckResult => 0x01C
  | .mtSeed => 0x020
  | .mtOut => 0x024
  | .mtCursor => 0x028
  | .rndLen => 0x02C
  | .decResult => 0x030
  | .decFlags => 0x034
  | .msgidHi => 0x038
  | .msgidLo => 0x03C

/-- The registers in the order of their offsets, one word each from 0x000 (10_state R23). -/
def Reg.all : List Reg :=
  [.cmd, .status, .irqEn, .config, .param, .rxLen, .bannerLen, .ckResult,
   .mtSeed, .mtOut, .mtCursor, .rndLen, .decResult, .decFlags, .msgidHi, .msgidLo]

/-- What an aligned offset reaches (20_memory R61, R62). -/
inductive Region where
  | reg (r : Reg)
  | buffer (b : Buffer)
  | mtWord (i : Fin 624)
  | unmapped
  deriving DecidableEq, Repr

/-- `a[1:0] != 0` (20_memory R63). -/
def misaligned (a : Offset) : Bool := a.toNat % 4 != 0

/-- The offset map (20_memory R62), for an aligned offset. -/
def locate (a : Offset) : Region :=
  match Reg.all[a.toNat / 4]? with
  | some r => .reg r
  | none =>
    if Buffer.txbuf.contains a.toNat then .buffer .txbuf
    else if Buffer.banner.contains a.toNat then .buffer .banner
    else if Buffer.rndbuf.contains a.toNat then .buffer .rndbuf
    else if h : 0x1000 ≤ a.toNat ∧ a.toNat < 0x19C0 then .mtWord ⟨(a.toNat - 0x1000) / 4, by omega⟩
    else if Buffer.rxbuf.contains a.toNat then .buffer .rxbuf
    else .unmapped

end Sys2Proof.Machine
end

