-- ==== Sys2Proof/Machine/Flags.lean ====
section
/-!
DEFINITION. The engine has no arithmetic flags (10_state R49). Its status bits, as the words software reads: STATUS
(10_state R25), IRQ_EN (R26), CONFIG (R27), PARAM (R28), DEC_RESULT (R36), and the output `irq` (R48).
-/
namespace Sys2Proof.Machine

/-- The number of an error code (60 R262). -/
def ErrCode.code : ErrCode → BitVec 4
  | .none => 0
  | .illegalCmd => 1
  | .busyOverrun => 2
  | .lenRange => 3
  | .notInit => 4
  | .config => 5
  | .alreadyInit => 6

/-- The number of a discard reason (42_decoder R196). -/
def Discard.code : Discard → BitVec 2
  | .short => 1
  | .magic => 2
  | .checksum => 3

/-- DEC_RESULT.REASON: 0 = accepted, or none since reset (10_state R36). -/
def reasonCode : Option Discard → BitVec 2
  | none => 0
  | some r => r.code

/-- DEC_RESULT as a word (10_state R36): REASON in bits 5:4, bit 3 zero, CKP, RR, ACC. -/
def DecResult.word (d : DecResult) : Word :=
  (reasonCode d.reason ++ (0 : BitVec 1) ++ BitVec.ofBool d.ckp ++ BitVec.ofBool d.rr ++ BitVec.ofBool d.acc).setWidth 32

/-- STATUS as a word (10_state R25): ERRCODE in bits 11:8, bit 7 zero, SRC_HW, TXV, SEEDED, INITD, ERR, DONE, BUSY. -/
def State.statusWord (s : State) : Word :=
  (s.errcode.code ++ (0 : BitVec 1) ++ BitVec.ofBool s.srcHw ++ BitVec.ofBool s.txv ++ BitVec.ofBool s.prng.seeded ++
    BitVec.ofBool s.initd ++ BitVec.ofBool s.err ++ BitVec.ofBool s.done ++ BitVec.ofBool s.busy).setWidth 32

/-- IRQ_EN as a word (10_state R26): ERR_IE, DONE_IE. -/
def State.irqEnWord (s : State) : Word := (BitVec.ofBool s.errIe ++ BitVec.ofBool s.doneIe).setWidth 32

/-- CONFIG as a word (10_state R27). -/
def State.configWord (s : State) : Word := (BitVec.ofBool s.forceMt).setWidth 32

/-- PARAM (10_state R28): HAS_TRNG in bit 16, RX_CAP in bits 15:0. -/
def paramWord : Word := (BitVec.ofBool Config.hasTrng ++ BitVec.ofNat 16 Config.rxCap).setWidth 32

/-- The output `irq` (10_state R48, 60 R269). -/
def State.irq (s : State) : Bool := (s.done && s.doneIe) || (s.err && s.errIe)

end Sys2Proof.Machine
end

