-- ==== Sys2Proof/Machine/Checksum.lean ====
section
/-!
DEFINITION. The Checksum Engine: the checksum function (40_checksum R130) and CKSUM (R136).
-/
namespace Sys2Proof.Machine

/-- The sum of the big-endian 16-bit words of a byte sequence, unbounded; an odd last byte is a high byte only
(40_checksum R130). -/
def wordSum : List Byte → Nat
  | [] => 0
  | [hi] => hi.toNat * 256
  | hi :: lo :: rest => hi.toNat * 256 + lo.toNat + wordSum rest

/-- One fold (00_scope, Fold). -/
def fold (acc : Nat) : Nat := (acc >>> 16) + (acc &&& 0xFFFF)

/-- `cksum(B)` (40_checksum R130): two folds, the one's complement of the low 16 bits, 0 replaced by 0xFFFF. -/
def cksum (B : List Byte) : Half :=
  let r := ~~~(BitVec.ofNat 16 (fold (fold (wordSum B))))
  if r = 0 then 0xFFFF else r

/-- What CKSUM does when its length check passes (40_checksum R136). -/
def cksumEffect (sel : Sel) (zf : Bool) (n : Nat) (s : State) : State :=
  { s with ckResult := cksum (cksumOperand sel zf n s) }

/-- CKSUM (40_checksum R136). -/
def execCksum (sel : Sel) (zf : Bool) (n : Nat) (s : State) : Host.Outcome State Fault Refusal :=
  runCommand [(exceeds n (selected sel).size, .lenRange)] (cksumEffect sel zf n) s

end Sys2Proof.Machine
end

