-- ==== Sys2Proof/Machine/Control.lean ====
section
/-!
DEFINITION. The control commands NOP (44_control R240) and INIT (R241).
-/
namespace Sys2Proof.Machine

/-- NOP (44_control R240). -/
def execNop (s : State) : Host.Outcome State Fault Refusal := runCommand [] id s

/-- `HAS_TRNG & ~CONFIG.FORCE_MT` (41_prng R160). -/
def selectsHardware (s : State) : Bool := !s.forceMt && Config.hasTrng

/-- What INIT does when its checks pass (44_control R241). -/
def initEffect (s : State) : State := { s with srcHw := selectsHardware s, initd := true }

/-- INIT (44_control R241). -/
def execInit (s : State) : Host.Outcome State Fault Refusal :=
  runCommand [(s.initd, .alreadyInit), (exceeds s.bannerLen.toNat bannerCap, .config)] initEffect s

end Sys2Proof.Machine
end

