-- ==== Sys2Proof/Machine/Generator.lean ====
section
/-!
DEFINITION. The Identifier Generator (41_prng): MT19937, the entropy source, and SEED, NEXT and RAND.
-/
namespace Sys2Proof.Machine

/-! ### Constants (41_prng R151) -/

/-- `F`, the seeding multiplier. -/
def mtMultiplier : Word := 1812433253

/-- `UPPER`. -/
def mtUpper : Word := 0x80000000

/-- `LOWER`. -/
def mtLower : Word := 0x7FFFFFFF

/-- `A`, the twist constant (90_conflicts C1). -/
def mtTwistConstant : Word := 0x9908B0DF

/-- `TB`, the mask of the shift-7 step. -/
def mtMaskB : Word := 0x9D2C5680

/-- `TC`, the mask of the shift-15 step. -/
def mtMaskC : Word := 0xEFC60000

/-! ### MT19937 (41_prng R152 to R156) -/

/-- Word `i` of the seeding recurrence (41_prng R152). -/
def seedWord (seed : Word) : Nat → Word
  | 0 => seed
  | i + 1 =>
    let prev := seedWord seed i
    mtMultiplier * (prev ^^^ (prev >>> 30)) + BitVec.ofNat 32 (i + 1)

/-- `mt_seed(s)` (41_prng R152): every word is written, and the first extraction will twist. -/
def mtSeed (seed : Word) : Prng where
  mt := Vector.ofFn fun i => seedWord seed i
  cursor := 624
  seeded := true

/-- The value one iteration of the twist gives `mt[i]`, from the three words it reads (41_prng R153). -/
def twistWord (cur next far : Word) : Word :=
  let y := (cur &&& mtUpper) ||| (next &&& mtLower)
  let v := y >>> 1
  far ^^^ (if y.getLsbD 0 then v ^^^ mtTwistConstant else v)

/-- One iteration of the twist, in place; the indices wrap modulo 624 (41_prng R153). -/
def twistAt (mt : Vector Word 624) (i : Fin 624) : Vector Word 624 :=
  mt.set i.val (twistWord mt[i] mt[i + 1] mt[i + 397]) i.isLt

/-- `mt_twist()` (41_prng R153): in place, in increasing index order, each iteration reading the words as they stand. -/
def mtTwist (mt : Vector Word 624) : Vector Word 624 := (List.finRange 624).foldl twistAt mt

/-- `temper(y)` (41_prng R154). -/
def temper (y : Word) : Word :=
  let y := y ^^^ (y >>> 11)
  let y := y ^^^ ((y <<< 7) &&& mtMaskB)
  let y := y ^^^ ((y <<< 15) &&& mtMaskC)
  y ^^^ (y >>> 18)

/-- `mt_extract()` (41_prng R155): twist first when the cursor is 624. -/
def mtExtract (p : Prng) : Word × Prng :=
  if h : p.cursor.val = 624 then
    let mt := mtTwist p.mt
    (temper mt[0], { p with mt := mt, cursor := 1 })
  else
    (temper (p.mt[p.cursor.val]'(by omega)), { p with cursor := ⟨p.cursor.val + 1, by omega⟩ })

/-- First-use seeding: while `seeded = 0`, seed from one draw of `time_now` (41_prng R156). -/
def seedIfNeeded (s : State) : State :=
  if s.prng.seeded then s
  else { s with prng := mtSeed (Config.timeNow s.draws), draws := s.draws + 1 }

/-- `mt_next()` (41_prng R156), the extraction every command performs. -/
def mtNext (s : State) : Word × State :=
  let s := seedIfNeeded s
  let (w, p) := mtExtract s.prng
  (w, { s with prng := p })

/-! ### Random bytes (41_prng R158, R161) -/

/-- The bytes of `g` whole words, big-endian (41_prng R158). -/
def mtGroups : Nat → State → List Byte × State
  | 0, s => ([], s)
  | g + 1, s =>
    let (w, s) := mtNext s
    let (bs, s) := mtGroups g s
    (bytesBE32 w ++ bs, s)

/-- `mt_bytes(n)` (41_prng R158): whole words, then the trailing `n mod 4` bytes of one more word. -/
def mtBytes (n : Nat) (s : State) : List Byte × State :=
  let (out, s) := mtGroups (n / 4) s
  if n % 4 = 0 then (out, s)
  else
    let (w, s) := mtNext s
    (out ++ (bytesBE32 w).drop (4 - n % 4), s)

/-- `n` reads of `entropy_byte`, in order, each a fresh draw (41_prng R161). -/
def entropyBytes (n : Nat) (s : State) : List Byte × State :=
  ((List.range n).map fun j => Config.entropyByte (s.draws + j), s.countDraws n)

/-- `random_bytes(n)` (41_prng R161). -/
def randomBytes (n : Nat) (s : State) : List Byte × State :=
  if s.srcHw then entropyBytes n s else mtBytes n s

/-! ### Commands -/

/-- What SEED does (41_prng R170). -/
def seedEffect (s : State) : State := { s with prng := mtSeed s.mtSeed }

/-- SEED (41_prng R170). -/
def execSeed (s : State) : Host.Outcome State Fault Refusal := runCommand [] seedEffect s

/-- What NEXT does (41_prng R171). -/
def nextEffect (s : State) : State :=
  let (w, s) := mtNext s
  { s with mtOut := w }

/-- NEXT (41_prng R171). -/
def execNext (s : State) : Host.Outcome State Fault Refusal := runCommand [] nextEffect s

/-- What RAND does when its checks pass (41_prng R172): the rest of RNDBUF is zeroed. -/
def randEffect (n : Nat) (s : State) : State :=
  let (bytes, s) := randomBytes n s
  let s := s.writeBytes Buffer.rndbuf.base (bytes ++ zeros (rndCap - n))
  { s with rndLen := BitVec.ofNat 7 n }

/-- RAND (41_prng R172). -/
def execRand (n : Nat) (s : State) : Host.Outcome State Fault Refusal :=
  runCommand [(!s.initd, .notInit), (exceeds n rndCap, .lenRange)] (randEffect n) s

end Sys2Proof.Machine
end

