-- ==== Sys2Proof/Machine/PacketDecoder.lean ====
section
/-!
DEFINITION. The Packet Decoder: the decode function (42_decoder R191), its register effects (R195, R196), and DECODE.
-/
namespace Sys2Proof.Machine

/-- `HDR_LEN`, the fixed header region (00_scope R6, 30_encoding R100). -/
def headerLength : Nat := 12

/-- The magic constant (30_encoding R100). -/
def magic : Half := 0x3250

/-- The result of `decode(D)` (42_decoder R191). -/
inductive Decoded where
  | discard (reason : Discard)
  | accept (id : List Byte) (flags : Half) (rr ckp : Bool)
  deriving DecidableEq, Repr

/-- `decode(D)` (42_decoder R191): length, magic, checksum, in this order; a checksum field of 0 is not checked. -/
def decodeDatagram (D : List Byte) : Decoded :=
  if D.length < headerLength then .discard .short
  else if be16 D 0 ≠ magic then .discard .magic
  else
    let f := be16 D 2
    if f ≠ 0 ∧ cksum (zeroField D) ≠ f then .discard .checksum
    else
      let flags := be16 D 10
      .accept (slice D 4 10) flags (flags.getLsbD 0) (f != 0)

/-- The register effects of a decode: of an accept (42_decoder R195), of a discard (R196). -/
def applyDecoded (d : Decoded) (s : State) : State :=
  match d with
  | .accept id flags rr ckp =>
    { s with msgidHi := be32 id 0, msgidLo := be16 id 4, decFlags := flags, decResult := ⟨true, rr, ckp, none⟩ }
  | .discard reason => { s with decResult := ⟨false, false, false, some reason⟩ }

/-- What DECODE does when its length check passes (42_decoder R197). -/
def decodeEffect (s : State) : State := applyDecoded (decodeDatagram (datagram s)) s

/-- RX_LEN > RX_CAP, the check of every command that decodes (42_decoder R190). -/
def rxLenTooLong (s : State) : Bool := exceeds s.rxLen.toNat Config.rxCap

/-- DECODE (42_decoder R197). -/
def execDecode (s : State) : Host.Outcome State Fault Refusal :=
  runCommand [(rxLenTooLong s, .lenRange)] decodeEffect s

end Sys2Proof.Machine
end

