-- ==== Sys2Proof/Machine/ReplyEncoder.lean ====
section
/-!
DEFINITION. The Reply Encoder: the reply's layout (30_encoding R102), the build function (43_encoder R210), REPLY
(R213) and PROCESS (R221).
-/
namespace Sys2Proof.Machine

/-- The reply's opcode flags (30_encoding R102, R105): the value as a whole; its bits have no meaning of their own. -/
def replyFlags : Half := 0x8002

/-- The extension type tag (30_encoding R102). -/
def extensionTag : Word := 0x3250564E

/-- The reply before step 7: the layout of 30_encoding R102 with the checksum field zero, zero after the banner
(43_encoder R210, steps 1 to 6). Its length is TX_SIZE for every banner INIT accepts; a longer banner, which no run
can latch, is cut there. -/
def unsignedReply (fresh id banner : List Byte) : List Byte :=
  (bytesBE16 magic ++ [0, 0] ++ fresh ++ bytesBE16 replyFlags ++ bytesBE16 6 ++ id ++
    bytesBE16 (BitVec.ofNat 16 (6 + banner.length)) ++ bytesBE32 extensionTag ++
    bytesBE16 (BitVec.ofNat 16 banner.length) ++ banner ++ zeros (bannerCap - banner.length)).take txSize

/-- Write the checksum field, bytes 2 and 3 (43_encoder R210, step 7). -/
def signReply (reply : List Byte) : List Byte :=
  let c := cksum reply
  (reply.set 2 (c.extractLsb' 8 8)).set 3 (c.extractLsb' 0 8)

/-- `build_reply(id, Bn)` with the operands of 43_encoder R211: all 128 bytes of TXBUF (R210). -/
def buildReply (s : State) : State :=
  let (fresh, s) := randomBytes 6 s
  s.writeBytes Buffer.txbuf.base (signReply (unsignedReply fresh (messageId s) (bannerBytes s)))

/-- What REPLY does when its check passes (43_encoder R212, R213). -/
def replyEffect (s : State) : State := { buildReply s with txv := true }

/-- REPLY (43_encoder R213). -/
def execReply (s : State) : Host.Outcome State Fault Refusal := runCommand [(!s.initd, .notInit)] replyEffect s

/-- What PROCESS does when its checks pass (43_encoder R221): the reply's id is the one just written to MSGID. -/
def processEffect (s : State) : State :=
  match decodeDatagram (datagram s) with
  | .accept id flags true ckp => replyEffect (applyDecoded (.accept id flags true ckp) s)
  | d => { applyDecoded d s with txv := false }

/-- PROCESS (43_encoder R221). -/
def execProcess (s : State) : Host.Outcome State Fault Refusal :=
  runCommand [(!s.initd, .notInit), (rxLenTooLong s, .lenRange)] processEffect s

end Sys2Proof.Machine
end

