-- ==== Sys2Proof/Machine/Dispatch.lean ====
section
/-!
DEFINITION. The commands' meanings, one arm per row of 30_encoding R91.
-/
namespace Sys2Proof.Machine

def exec (i : Instr) (s : State) : Host.Outcome State Fault Refusal :=
  match i with
  | .nop => Sys2Proof.Machine.execNop s
  | .init => Sys2Proof.Machine.execInit s
  | .cksum sel zf n => Sys2Proof.Machine.execCksum sel zf n s
  | .seed => Sys2Proof.Machine.execSeed s
  | .next => Sys2Proof.Machine.execNext s
  | .rand n => Sys2Proof.Machine.execRand n s
  | .decode => Sys2Proof.Machine.execDecode s
  | .reply => Sys2Proof.Machine.execReply s
  | .process => Sys2Proof.Machine.execProcess s

end Sys2Proof.Machine
end

