-- ==== Sys2Proof/Machine/HostPort.lean ====
section
/-!
DEFINITION. The host's side: bus reads and writes (10_state R23 to R40, 20_memory R60 to R74, 70 R305, R306), the step
of a host program (30_encoding R97), and reset (70 R300).
-/
namespace Sys2Proof.Machine

/-! ### Reads -/

/-- What a read of a register returns while no command runs (10_state R23 to R39). -/
def readReg (r : Reg) (s : State) : Word :=
  match r with
  | .cmd => 0
  | .status => s.statusWord
  | .irqEn => s.irqEnWord
  | .config => s.configWord
  | .param => paramWord
  | .rxLen => s.rxLen.setWidth 32
  | .bannerLen => s.bannerLen.setWidth 32
  | .ckResult => s.ckResult.setWidth 32
  | .mtSeed => s.mtSeed
  | .mtOut => s.mtOut
  | .mtCursor => BitVec.ofNat 32 s.prng.cursor.val
  | .rndLen => s.rndLen.setWidth 32
  | .decResult => s.decResult.word
  | .decFlags => s.decFlags.setWidth 32
  | .msgidHi => s.msgidHi
  | .msgidLo => s.msgidLo.setWidth 32

/-- What an aligned read returns while no command runs; an unmapped offset reads 0 (20_memory R64 to R70). -/
def readRegion (a : Offset) (s : State) : Word :=
  match locate a with
  | .reg r => readReg r s
  | .buffer _ => s.readWord a.toNat
  | .mtWord i => s.prng.mt[i]
  | .unmapped => 0

/-- No command writes the register, so it reads as it is even while `busy = 1` (70 R306). -/
def regSettled : Reg → Bool
  | .cmd | .status | .irqEn | .config | .param | .rxLen | .bannerLen | .mtSeed => true
  | .ckResult | .mtOut | .mtCursor | .rndLen | .decResult | .decFlags | .msgidHi | .msgidLo => false

/-- What reads as it is even while `busy = 1` (70 R306); every unmapped offset does not. -/
def settled : Region → Bool
  | .reg r => regSettled r
  | .buffer .banner | .buffer .rxbuf => true
  | .buffer .txbuf | .buffer .rndbuf => false
  | .mtWord _ => false
  | .unmapped => false

/-- `MemRead(a, 4)`: the value read, and the state, in which only a draw is counted or a host fault recorded. A
misaligned read has no value (20_memory R63); a read of command-written state while busy is a draw (70 R306). -/
def hostRead (a : Offset) (s : State) : Option Word × State :=
  if misaligned a then (none, s.recordFault .misaligned)
  else if s.busy && !settled (locate a) then (some (Config.busyRead s.draws), s.countDraws 1)
  else (some (readRegion a s), s)

/-! ### Writes -/

/-- A write to CMD (10_state R24): latch the word, or overrun (60 R264). -/
def writeCmd (v : Word) (s : State) : State :=
  if s.busy then s.overrun else { s with pending := v, busy := true }

/-- A write to a register; reserved bits and RO registers ignore it, RWL registers while `initd = 1` (10_state R23 to R40). -/
def writeReg (r : Reg) (v : Word) (s : State) : State :=
  match r with
  | .cmd => writeCmd v s
  | .status => s.acknowledge v
  | .irqEn => { s with doneIe := v.getLsbD 0, errIe := v.getLsbD 1 }
  | .config => if s.initd then s else { s with forceMt := v.getLsbD 0 }
  | .rxLen => { s with rxLen := v.setWidth 16 }
  | .bannerLen => if s.initd then s else { s with bannerLen := v.setWidth 8 }
  | .mtSeed => { s with mtSeed := v }
  | .msgidHi => { s with msgidHi := v }
  | .msgidLo => { s with msgidLo := v.setWidth 16 }
  | .param | .ckResult | .mtOut | .mtCursor | .rndLen | .decResult | .decFlags => s

/-- An aligned write that the contract allows: RXBUF is RW, BANNER is RWL, the other windows are RO, an unmapped offset
ignores it (20_memory R64 to R70). -/
def writeRegion (a : Offset) (v : Word) (s : State) : State :=
  match locate a with
  | .reg r => writeReg r v s
  | .buffer .rxbuf => s.writeWord a.toNat v
  | .buffer .banner => if s.initd then s else s.writeWord a.toNat v
  | .buffer .txbuf | .buffer .rndbuf => s
  | .mtWord _ => s
  | .unmapped => s

/-- What the host may write while `busy = 1`: CMD, STATUS and IRQ_EN (70 R305). -/
def writableWhileBusy : Region → Bool
  | .reg .cmd | .reg .status | .reg .irqEn => true
  | _ => false

/-- `MemWrite(a, 4, v)` (20_memory R60). A faulting write is recorded and has no other effect (60 R270). -/
def hostWrite (a : Offset) (v : Word) (s : State) : State :=
  if misaligned a then s.recordFault .misaligned
  else if s.busy && !writableWhileBusy (locate a) then s.recordFault .writeWhileBusy
  else writeRegion a v s

/-! ### The host program (30_encoding R97) -/

/-- The host goes on at a position. -/
def State.hostGoto (pos : Nat) (s : State) : State := { s with host := { s.host with pos := pos } }

/-- The host takes a value into `h`; a read without a value leaves `h`. -/
def State.hostTake (v : Option Word) (s : State) : State :=
  { s with host := { s.host with acc := v.getD s.host.acc } }

/-- One host statement. At HALT, and past the end of the program, the host issues nothing more (70 R304). -/
def hostStep (s : State) : State :=
  let next := s.host.pos + 1
  match s.host.prog[s.host.pos]? with
  | some (.wr a v) => (hostWrite a v s).hostGoto next
  | some (.rd a) =>
    let (v, s) := hostRead a s
    (s.hostTake v).hostGoto next
  | some (.jf a mask val target) =>
    let (v, s) := hostRead a s
    let s := s.hostTake v
    s.hostGoto (if s.host.acc &&& mask = val then target else next)
  | some (.j target) => s.hostGoto target
  | some .halt => s
  | none => s

/-- The host program has ended: the host is at HALT or past the end. -/
def State.hostEnded (s : State) : Bool :=
  match s.host.prog[s.host.pos]? with
  | some .halt => true
  | none => true
  | some _ => false

/-- The run has ended: the host has, and no command is pending or executing (70 R304). -/
def State.runEnded (s : State) : Bool := s.hostEnded && !s.busy

/-! ### Reset and the schedule -/

/-- Reset released (70 R300): every piece of engine state takes its reset value in one step. The host, the schedule and
the draws are no engine state. -/
def platformReset (s : State) : State := State.atReset (s.resets + 1) s.host s.sched s.draws

/-- Who makes the next step: the schedule's first move; without one, the engine if a command is pending (70 R303), else
the host. -/
def nextMove (s : State) : Move :=
  match s.sched with
  | m :: _ => m
  | [] => if s.busy then .engine else .host

/-- The schedule without the move being made. -/
def popMove (s : State) : State := { s with sched := s.sched.tail }

end Sys2Proof.Machine
end

