-- ==== Sys2Proof/Machine/Sequencer.lean ====
section
/-!
DEFINITION. The command sequencer (10_state R45): the engine step (70 R303) and the step of the whole system, one move
of one agent (20_memory R75).
-/
namespace Sys2Proof.Machine

/-- The engine step (70 R303): while `busy = 1`, execute `pending`; a word that is no command is ILLEGAL_CMD
(30_encoding R94). An idle engine does nothing (70 R302). -/
def engineStep (s : State) : Host.Outcome State Fault Refusal :=
  if s.busy then
    match decodeWord s.pending with
    | .ok i => exec i s
    | .error _ => .next (s.raiseError .illegalCmd)
  else .next s

/-- One step of the agent whose move it is. -/
def moveStep (m : Move) (s : State) : Host.Outcome State Fault Refusal :=
  match m with
  | .engine => engineStep s
  | .host => .next (hostStep s)
  | .reset => .next (platformReset s)

/-- The word latched as a CMD write of it would latch it, and the next move the engine's. -/
def latchForEngine (w : Word) (s : State) : State :=
  { s with pending := w, busy := true, sched := .engine :: s.sched }

end Sys2Proof.Machine
end

