-- ==== Sys2Proof/Machine/Step.lean ====
section
/-!
DEFINITION. One step of the system, and the word the engine executes next.
-/
namespace Sys2Proof.Machine

/-- One step: one move of one agent (20_memory R75, 70 R303). -/
def step (s : State) : Host.Outcome State Fault Refusal := moveStep (nextMove s) (popMove s)

/-- The state in which the very next step is the engine's and executes the word `w` of `nbits` bits: `pending` holds
it, `busy` is set, as a latched CMD write leaves them (10_state R24), and the schedule gives the engine the move. -/
def State.withFetchWord (s : State) (nbits w : Nat) : State := latchForEngine (BitVec.ofNat 32 (w % 2 ^ nbits)) s

end Sys2Proof.Machine
end

