-- ==== Sys2Proof/Machine/HostAsm.lean ====
section
/-!
DEFINITION. The host assembly syntax: labels (30_encoding R97) and pseudo-statements with their expansions (R98).
A label's name is a number; a register or window name is its offset (`Reg.offset`, `Buffer.base`, `mtStateBase`).
-/
namespace Sys2Proof.Machine

/-- The window name `MT_STATE` (30_encoding R97). -/
def mtStateBase : Nat := 0x1000

/-- One line of a host program (30_encoding R97, R98). -/
inductive AsmLine where
  /-- `name:`. -/
  | label (name : Nat)
  /-- `WR off, imm32`. -/
  | wr (off : Offset) (imm : Word)
  /-- `RD off`. -/
  | rd (off : Offset)
  /-- `JF off, mask, val, label`. -/
  | jf (off : Offset) (mask val : Word) (name : Nat)
  /-- `J label`. -/
  | j (name : Nat)
  /-- `HALT`. -/
  | halt
  /-- A command's own pseudo-statement: `NOP`, `CKSUM rx, zf, n`, `RAND n` and so on. -/
  | command (i : Instr)
  /-- `WAIT`. -/
  | wait
  /-- `LOADB win, i, b0 b1 ... bk`. -/
  | loadb (win : Nat) (i : Nat) (bytes : List Byte)
  /-- `CLR`. -/
  | clr
  deriving DecidableEq, Repr

/-- The words of a byte sequence, big-endian, a short last group padded with 0x00 (30_encoding R98, LOADB). -/
def groupWords : List Byte → List Word
  | [] => []
  | b0 :: b1 :: b2 :: b3 :: rest => be32 [b0, b1, b2, b3] 0 :: groupWords rest
  | short => [be32 short 0]

/-- `WR win + i + 4j` for the words from that offset on (30_encoding R98, LOADB). DESIGN CHOICE, log 26: past 0xFFFF, where
the spec is silent, the 16-bit offset (20_memory R60) wraps modulo 2^16, and no line is refused for it. -/
def loadWords (a : Nat) : List Word → List HostStmt
  | [] => []
  | v :: rest => .wr (BitVec.ofNat 16 a) v :: loadWords (a + 4) rest

/-- How many statements a line expands to. -/
def AsmLine.size : AsmLine → Nat
  | .label _ => 0
  | .loadb _ _ bytes => (groupWords bytes).length
  | .wr _ _ | .rd _ | .jf _ _ _ _ | .j _ | .halt | .command _ | .wait | .clr => 1

/-- The position a label stands for, the lines starting at a position. -/
def labelPosition (name : Nat) : List AsmLine → Nat → Option Nat
  | [], _ => none
  | .label n :: rest, pos => if n = name then some pos else labelPosition name rest pos
  | line :: rest, pos => labelPosition name rest (pos + line.size)

/-- The statements of the line at a position (30_encoding R97, R98); `none` for an undefined label, a command with no
word, or a LOADB whose `i` is no multiple of 4. -/
def AsmLine.expand (position : Nat → Option Nat) (pos : Nat) : AsmLine → Option (List HostStmt)
  | .label _ => some []
  | .wr off imm => some [.wr off imm]
  | .rd off => some [.rd off]
  | .jf off mask val name => (position name).map fun p => [.jf off mask val p]
  | .j name => (position name).map fun p => [.j p]
  | .halt => some [.halt]
  | .command i => if i.wellFormed then some [.wr Reg.cmd.offset (encode i)] else none
  | .wait => some [.jf Reg.status.offset 0x1 0x1 pos]
  | .loadb win i bytes => if i % 4 = 0 then some (loadWords (win + i) (groupWords bytes)) else none
  | .clr => some [.wr Reg.status.offset 0x00000026]

/-- Expand the lines from a position on. -/
def expandLines (position : Nat → Option Nat) : List AsmLine → Nat → Option (List HostStmt)
  | [], _ => some []
  | line :: rest, pos =>
    match line.expand position pos, expandLines position rest (pos + line.size) with
    | some here, some later => some (here ++ later)
    | _, _ => none

/-- A host program from its lines. -/
def assemble (lines : List AsmLine) : Option (List HostStmt) :=
  expandLines (fun name => labelPosition name lines 0) lines 0

/-- The engine with a host program that is about to start: how a program comes to run from reset. -/
def State.withHostProgram (s : State) (prog : List HostStmt) : State := { s with host := ⟨prog, 0, s.host.acc⟩ }

end Sys2Proof.Machine
end

