-- ==== Sys2Proof/Safety.lean ====
section
/-!
DEFINITION. The terms claims are stated in: the interface contract, the invariant of the machine, what an access or a
command leaves alone, the word stream of the generator, and the check order of 60 R263 written by its steps.
-/
namespace Sys2Proof.Machine

/-! ### Runs -/

/-- No host fault is recorded: the run is inside the interface contract (10_state R46, 60 R270). -/
def State.inContract (s : State) : Prop := s.fault = []

/-- The next step is the engine's, with a command pending (70 R303). -/
def State.engineTurn (s : State) : Prop := s.busy = true ∧ nextMove s = .engine

/-- The offset lies in one of the four byte buffers (20_memory R62). -/
def inSomeBuffer (a : Nat) : Prop := ∃ b : Buffer, b.contains a = true

/-- The invariant of the machine: it holds at reset and every step keeps it. -/
structure State.Inv (s : State) : Prop where
  /-- Memory is in its canonical form. -/
  memoryForm : Memory.wf s.mem
  /-- Every written byte is a byte of a buffer: no index outside a buffer is ever formed (20_memory R71). -/
  memoryPlace : ∀ c ∈ s.mem, inSomeBuffer c.1
  /-- ERRCODE is NONE exactly while ERR = 0 (10_state R25, 60 R262). -/
  errcode : s.err = false ↔ s.errcode = .none
  /-- After INIT the banner fits the reply (44_control R241, 43_encoder R211). -/
  bannerFits : s.initd = true → s.bannerLen.toNat ≤ 100
  /-- The source was latched at INIT, from a configuration frozen since (10_state R44, 41_prng R160). -/
  sourceLatched : s.srcHw = (s.initd && (Config.hasTrng && !s.forceMt))
  /-- RND_LEN is in [0, 64] (10_state R35). -/
  rndLen : s.rndLen.toNat ≤ 64
  /-- Before the first seeding the cursor is 624 (10_state R42, 41_prng R150, R156). -/
  cursorUnseeded : s.prng.seeded = false → s.prng.cursor.val = 624
  /-- REASON = 0 while ACC = 1 (10_state R36). -/
  reason : s.decResult.acc = true → s.decResult.reason = none
  /-- RR and CKP are 0 unless the datagram was accepted, and RR is bit 0 of its flags (10_state R36, R37). -/
  accepted : s.decResult.acc = false → s.decResult.rr = false ∧ s.decResult.ckp = false
  /-- While ACC = 1, RR is bit 0 of DEC_FLAGS (10_state R36, R37). -/
  replyRequest : s.decResult.acc = true → s.decResult.rr = s.decFlags.getLsbD 0

/-! ### Frames -/

/-- Every byte of every buffer reads as before. -/
def sameBytes (s t : State) : Prop := ∀ a, t.readByte a = s.readByte a

/-- Every byte outside `[a, a + n)` reads as before. -/
def sameBytesOutside (a n : Nat) (s t : State) : Prop := ∀ x, (x < a ∨ a + n ≤ x) → t.readByte x = s.readByte x

/-- Every byte of the buffer reads as before. -/
def sameBuffer (b : Buffer) (s t : State) : Prop := ∀ a, b.contains a = true → t.readByte a = s.readByte a

/-! ### Command words -/

/-- The word is no command. -/
def illegal (w : Word) : Prop := ∀ i, decodeWord w ≠ .ok i

/-- The words with the OP of `pattern`: those that match the row are the command `reads` gives, the others are none
(30_encoding R92, R93). -/
def encodedBy (pattern mask : Word) (reads : Word → Instr) : Prop :=
  ∀ w : Word, w.extractLsb' 0 8 = pattern.extractLsb' 0 8 →
    (w &&& mask = pattern → decodeWord w = .ok (reads w)) ∧ (w &&& mask ≠ pattern → illegal w)

/-- The command ends with this error and does nothing else (60 R261). -/
def endsInError (i : Instr) (s : State) (code : ErrCode) : Prop :=
  exec i s = .next { s with err := true, errcode := code, busy := false }

/-! ### The check order of 60 R263, step by step -/

/-- Step 2 for RAND, REPLY and PROCESS: they need `initd = 1`. -/
def needsInit : Instr → Bool
  | .rand _ | .reply | .process => true
  | .nop | .init | .cksum _ _ _ | .seed | .next | .decode => false

/-- Step 3: the length a command checks exceeds its capacity. -/
def lengthExceeds (i : Instr) (s : State) : Bool :=
  match i with
  | .cksum .rx _ n => Config.rxCap < n
  | .cksum .tx _ n => 128 < n
  | .rand n => 64 < n
  | .decode | .process => Config.rxCap < s.rxLen.toNat
  | .nop | .init | .seed | .next | .reply => false

/-- The first failing check of steps 2 to 4 (60 R263). -/
def firstCheckFailing (i : Instr) (s : State) : Option ErrCode :=
  if needsInit i && !s.initd then some .notInit
  else if i = .init ∧ s.initd then some .alreadyInit
  else if lengthExceeds i s then some .lenRange
  else if i = .init ∧ 100 < s.bannerLen.toNat then some .config
  else none

/-! ### The generator's word stream -/

/-- The state after `k` extractions. -/
def afterWords : Nat → State → State
  | 0, s => s
  | k + 1, s => afterWords k (mtNext s).2

/-- The word that extraction number `k` returns, counting from 0. -/
def streamWord (k : Nat) (s : State) : Word := (mtNext (afterWords k s)).1

/-- The bytes a list of requests gets, one after the other. -/
def byteStream : List Nat → State → List (List Byte)
  | [], _ => []
  | n :: rest, s => (mtBytes n s).1 :: byteStream rest (mtBytes n s).2

/-- The reply with its checksum field zero, field by field (30_encoding R102). -/
def zeroChecksumReply (fresh id banner : List Byte) : List Byte :=
  [0x32, 0x50] ++ [0x00, 0x00] ++ fresh ++ [0x80, 0x02] ++ [0x00, 0x06] ++ id ++
    bytesBE16 (BitVec.ofNat 16 (6 + banner.length)) ++ [0x32, 0x50, 0x56, 0x4E] ++
    bytesBE16 (BitVec.ofNat 16 banner.length) ++ banner ++ List.replicate (100 - banner.length) 0x00

/-- The reply with its checksum field filled (30_encoding R102, 43_encoder R210 step 7). -/
def checksummedReply (fresh id banner : List Byte) : List Byte :=
  [0x32, 0x50] ++ bytesBE16 (cksum (zeroChecksumReply fresh id banner)) ++ fresh ++ [0x80, 0x02] ++ [0x00, 0x06] ++ id ++
    bytesBE16 (BitVec.ofNat 16 (6 + banner.length)) ++ [0x32, 0x50, 0x56, 0x4E] ++
    bytesBE16 (BitVec.ofNat 16 banner.length) ++ banner ++ List.replicate (100 - banner.length) 0x00

end Sys2Proof.Machine
end

