-- ==== Sys2Proof/Certificates/Slice0/Obligations.lean ====
section
/-!
DEFINITION. The statements for the provers, file by file of the spec.
-/
open Sys2Proof Sys2Proof.Machine

/-! ### The command word (30_encoding) -/

/-- R96: the worked encodings decode to the commands they stand for, and 0x00010000 ends in ILLEGAL_CMD. -/
def Obligations.WorkedEncodingsDecode : Prop :=
  decodeWord 0x000C0002 = .ok (.cksum .rx false 12) ∧
  decodeWord 0x000C0202 = .ok (.cksum .rx true 12) ∧
  decodeWord 0x00800102 = .ok (.cksum .tx false 128) ∧
  decodeWord 0x00800302 = .ok (.cksum .tx true 128) ∧
  decodeWord 0x00060005 = .ok (.rand 6) ∧
  decodeWord 0x00110005 = .ok (.rand 17) ∧
  decodeWord 0x00000008 = .ok .process ∧
  ∀ s : State, s.busy = true → s.pending = 0x00010000 → engineStep s = .next (s.raiseError .illegalCmd)

/-- Decoding the word of a well-formed command gives the command back, for every command and every operand. -/
def Obligations.DecodeEncodeRoundTrip : Prop :=
  ∀ i : Instr, i.wellFormed = true → decodeWord (encode i) = .ok i

/-- Every word has one meaning: a word that decodes is the word of the command it decodes to, which is well formed. -/
def Obligations.EncodeDecodeRoundTrip : Prop :=
  ∀ (w : Word) (i : Instr), decodeWord w = .ok i → i.wellFormed = true ∧ encode i = w

/-- R92: a word selects the command whose row matches `w & mask`, with its free fields; exactly one row, or none,
matches any word, and a word that matches none is no command. The rows differ in OP, and each mask includes all of OP. -/
def Obligations.MatchAndMaskSelectCommand : Prop :=
  (encodingRows.Pairwise fun r r' => r.pattern &&& 0xFF ≠ r'.pattern &&& 0xFF) ∧
  (∀ r ∈ encodingRows, r.mask &&& 0xFF = 0xFF) ∧
  ∀ w : Word,
    (w &&& 0xFFFFFFFF = 0x00000000 → decodeWord w = .ok .nop) ∧
    (w &&& 0xFFFFFFFF = 0x00000001 → decodeWord w = .ok .init) ∧
    (w &&& 0x0000FCFF = 0x00000002 →
      decodeWord w = .ok (.cksum (if w.getLsbD 8 then .tx else .rx) (w.getLsbD 9) (w.toNat / 65536))) ∧
    (w &&& 0xFFFFFFFF = 0x00000003 → decodeWord w = .ok .seed) ∧
    (w &&& 0xFFFFFFFF = 0x00000004 → decodeWord w = .ok .next) ∧
    (w &&& 0x0000FFFF = 0x00000005 → decodeWord w = .ok (.rand (w.toNat / 65536))) ∧
    (w &&& 0xFFFFFFFF = 0x00000006 → decodeWord w = .ok .decode) ∧
    (w &&& 0xFFFFFFFF = 0x00000007 → decodeWord w = .ok .reply) ∧
    (w &&& 0xFFFFFFFF = 0x00000008 → decodeWord w = .ok .process) ∧
    ((∀ r ∈ encodingRows, w &&& r.mask ≠ r.pattern) → illegal w) ∧
    (encodingRows.filter fun r => w &&& r.mask = r.pattern).length ≤ 1

/-- R94: the engine step of a word that matches no row of R92 sets ERR and ERRCODE = ILLEGAL_CMD and ends the command;
nothing else changes. Every word with an OP from 0x09 to 0xFF is such a word. -/
def Obligations.IllegalWordOnlyReportsError : Prop :=
  (∀ s : State, s.engineTurn → (∀ r ∈ encodingRows, s.pending &&& r.mask ≠ r.pattern) →
    step s = .next { s with err := true, errcode := .illegalCmd, busy := false, sched := s.sched.tail }) ∧
  (∀ w : Word, 0x09 ≤ w.toNat % 256 → ∀ r ∈ encodingRows, w &&& r.mask ≠ r.pattern)

/-! ### The step (70_reset_and_hazards, 60_exceptions) -/

/-- When the pending word decodes to a command and the move is the engine's, the step is that command's meaning in the
state without the move; and the step after `withFetchWord` is the meaning of the command of that word. The schedule and
`withFetchWord` are the model's (log 1 and 2). -/
def Obligations.EngineStepRunsDecodedCommand : Prop :=
  (∀ (s : State) (i : Instr), s.engineTurn → decodeWord s.pending = .ok i →
    step s = exec i { s with sched := s.sched.tail }) ∧
  (∀ (s : State) (nbits w : Nat) (i : Instr), decodeTableWord nbits w = some i →
    step (s.withFetchWord nbits w) = exec i { s with pending := BitVec.ofNat 32 (w % 2 ^ nbits), busy := true })

/-- One engine step ends the pending command: BUSY is 0 after it, and either DONE is set and ERR and ERRCODE are as they
were, or ERR is set with a code and DONE is as it was. -/
def Obligations.EngineStepEndsCommand : Prop :=
  ∀ s : State, s.engineTurn → ∃ t, step s = .next t ∧ t.busy = false ∧
    ((t.done = true ∧ t.err = s.err ∧ t.errcode = s.errcode) ∨
      (t.err = true ∧ t.errcode ≠ .none ∧ t.done = s.done))

/-- R261: a command that does not end by `finish` changes nothing but ERR, ERRCODE and `busy`; one that does sets DONE,
clears `busy` and leaves ERR and ERRCODE. -/
def Obligations.ErroredCommandChangesOnlyStatus : Prop :=
  ∀ (i : Instr) (s : State),
    (∃ code, code ≠ .none ∧ endsInError i s code) ∨
    (∃ t, exec i s = .next t ∧ t.done = true ∧ t.busy = false ∧ t.err = s.err ∧ t.errcode = s.errcode)

/-- R263: a command ends in the error of the first check that fails, in the order state, length, configuration, and in
no error when none fails; a word that matches no row fails before all of them. -/
def Obligations.ChecksFailInOrder : Prop :=
  (∀ (i : Instr) (s : State),
    (∀ code, firstCheckFailing i s = some code → endsInError i s code) ∧
    (firstCheckFailing i s = none →
      ∃ t, exec i s = .next t ∧ t.done = true ∧ t.busy = false ∧ t.err = s.err ∧ t.errcode = s.errcode)) ∧
  (∀ s : State, s.busy = true → illegal s.pending → engineStep s = .next (s.raiseError .illegalCmd))

/-! ### Control commands (44_control) -/

/-- R240: NOP is the word 0 exactly; in every state it sets DONE, ends, and changes nothing else. -/
def Obligations.NopOnlySetsDone : Prop :=
  encodedBy 0x00000000 0xFFFFFFFF (fun _ => .nop) ∧
  ∀ s : State, exec .nop s = .next { s with done := true, busy := false }

/-- R241, R160: INIT latches the source and `initd`, and changes nothing else; it fails with ALREADY_INIT after a
successful INIT, and with CONFIG for a banner of more than 100 bytes. -/
def Obligations.InitLatchesConfiguration : Prop :=
  encodedBy 0x00000001 0xFFFFFFFF (fun _ => .init) ∧
  ∀ s : State,
    (s.initd = true → endsInError .init s .alreadyInit) ∧
    (s.initd = false → 100 < s.bannerLen.toNat → endsInError .init s .config) ∧
    (s.initd = false → s.bannerLen.toNat ≤ 100 →
      exec .init s =
        .next { s with srcHw := Config.hasTrng && !s.forceMt, initd := true, done := true, busy := false })

/-! ### Checksum Engine (40_checksum) -/

/-- R130: the checksum is the complement of the twice-folded sum of the big-endian 16-bit words, an odd last byte being a
high byte, with 0 replaced by 0xFFFF. -/
def Obligations.ChecksumIsFoldedComplement : Prop :=
  ∀ B : List Byte,
    let acc := ((List.range ((B.length + 1) / 2)).map fun k =>
      (B.getD (2 * k) 0).toNat * 256 + (B.getD (2 * k + 1) 0).toNat).sum
    let acc1 := acc / 65536 + acc % 65536
    let acc2 := acc1 / 65536 + acc1 % 65536
    let r := 65535 - acc2 % 65536
    (cksum B).toNat = if r = 0 then 65535 else r

/-- R132: the checksum is never 0; it is 0xFFFF for exactly the folded sums 0x0000 and 0xFFFF of the low 16 bits, and the
folded sum is 0 only when every byte is 0. -/
def Obligations.ChecksumIsNeverZero : Prop :=
  ∀ B : List Byte,
    cksum B ≠ 0 ∧
    (cksum B = 0xFFFF ↔ fold (fold (wordSum B)) % 65536 = 0 ∨ fold (fold (wordSum B)) % 65536 = 65535) ∧
    (fold (fold (wordSum B)) = 0 ↔ ∀ b ∈ B, b = 0)

/-- R131, R7: for every buffer the engine can checksum the accumulator is at most 0x3FFFC000, below 2^32, and after two
folds it is at most 0xFFFF. -/
def Obligations.TwoFoldsFitSixteenBits : Prop :=
  (∀ B : List Byte, B.length ≤ 32768 →
    wordSum B ≤ 0x3FFFC000 ∧ wordSum B % 2 ^ 32 = wordSum B ∧ fold (fold (wordSum B)) ≤ 0xFFFF) ∧
  (∀ b : Buffer, b.size ≤ 32768) ∧
  (∀ n : Nat, wordSum (List.replicate (2 * n) 0xFF) = n * 0xFFFF)

/-- R137: trailing zeros do not change the checksum; so the whole reply buffer has the checksum of its populated
region. -/
def Obligations.TrailingZerosKeepChecksum : Prop :=
  (∀ (B : List Byte) (k : Nat), cksum (B ++ List.replicate k 0) = cksum B) ∧
  (∀ s : State, s.initd = true → s.bannerLen.toNat ≤ 100 → ∃ t, exec .reply s = .next t ∧
    cksum (t.readBytes 0x0100 128) = cksum (t.readBytes 0x0100 (28 + s.bannerLen.toNat)))

/-- R134: the zero-field view has the same length, 0 at the indices 2 and 3 it has, and every other byte as it was. -/
def Obligations.ZeroFieldViewZeroesBytesTwoAndThree : Prop :=
  ∀ B : List Byte, (zeroField B).length = B.length ∧
    ∀ i, i < B.length → (zeroField B)[i]? = if i = 2 ∨ i = 3 then some 0 else B[i]?

/-- R136: CKSUM puts the checksum of the selected prefix, through the zero-field view if ZF = 1, into CK_RESULT, and
changes nothing else; it fails with LEN_RANGE beyond the buffer's capacity; `n = 0` gives 0xFFFF. -/
def Obligations.CksumWritesChecksumOfPrefix : Prop :=
  encodedBy 0x00000002 0x0000FCFF
    (fun w => .cksum (if w.getLsbD 8 then .tx else .rx) (w.getLsbD 9) (w.toNat / 65536)) ∧
  ∀ (s : State) (sel : Sel) (zf : Bool) (n : Nat),
    let cap := match sel with
      | .rx => Config.rxCap
      | .tx => 128
    let B := match sel with
      | .rx => s.readBytes 0x8000 n
      | .tx => s.readBytes 0x0100 n
    (cap < n → endsInError (.cksum sel zf n) s .lenRange) ∧
    (n ≤ cap → exec (.cksum sel zf n) s =
      .next { s with ckResult := cksum (if zf then zeroField B else B), done := true, busy := false }) ∧
    (exec (.cksum sel zf 0) s = .next { s with ckResult := 0xFFFF, done := true, busy := false })

/-! ### Identifier Generator (41_prng) -/

/-- R152: seeding writes every word by the recurrence modulo 2^32, sets the cursor to 624 and marks the state seeded. -/
def Obligations.SeedingFollowsRecurrence : Prop :=
  ∀ seed : Word,
    (mtSeed seed).mt[0] = seed ∧
    (∀ (i : Nat) (h : i + 1 < 624),
      ((mtSeed seed).mt[i + 1]'h).toNat =
        (1812433253 * ((mtSeed seed).mt[i] ^^^ ((mtSeed seed).mt[i] >>> 30)).toNat + (i + 1)) % 2 ^ 32) ∧
    (mtSeed seed).cursor.val = 624 ∧ (mtSeed seed).seeded = true

/-- R170: SEED seeds the MT state from MT_SEED in every state and changes nothing else but DONE; seed 0 gives the words
0, 1 and 0x6C078967. -/
def Obligations.SeedSeedsFromMtSeed : Prop :=
  encodedBy 0x00000003 0xFFFFFFFF (fun _ => .seed) ∧
  (∀ s : State, exec .seed s = .next { s with prng := mtSeed s.mtSeed, done := true, busy := false }) ∧
  (mtSeed 0).mt[0] = 0 ∧ (mtSeed 0).mt[1] = 1 ∧ (mtSeed 0).mt[2] = 0x6C078967

/-- R153: the in-place twist in closed form. Words below 227 come from old words only; from 227 on the far word is
already new; word 623 also reads the new word 0. -/
def Obligations.TwistInClosedForm : Prop :=
  (∀ cur next far : Word,
    let y := (cur &&& 0x80000000) ||| (next &&& 0x7FFFFFFF)
    twistWord cur next far = far ^^^ ((y >>> 1) ^^^ (if y.toNat % 2 = 1 then 0x9908B0DF else 0))) ∧
  ∀ old : Vector Word 624,
    (∀ (i : Nat) (h : i < 227), (mtTwist old)[i] = twistWord old[i] old[i + 1] old[i + 397]) ∧
    (∀ (i : Nat) (h : i < 623), 227 ≤ i →
      (mtTwist old)[i] = twistWord old[i] old[i + 1] ((mtTwist old)[i - 227]'(by omega))) ∧
    (mtTwist old)[623] = twistWord old[623] (mtTwist old)[0] (mtTwist old)[396]

/-- R154: tempering, written on numbers modulo 2^32. -/
def Obligations.TemperingTransform : Prop :=
  ∀ y : Word,
    let a := y.toNat ^^^ (y.toNat / 2 ^ 11)
    let b := a ^^^ ((a * 2 ^ 7 % 2 ^ 32) &&& 0x9D2C5680)
    let c := b ^^^ ((b * 2 ^ 15 % 2 ^ 32) &&& 0xEFC60000)
    (temper y).toNat = c ^^^ (c / 2 ^ 18)

/-- R155: an extraction at cursor 624 twists first and leaves cursor 1; any other tempers the word at the cursor, advances
the cursor by one and leaves the words; after an extraction the cursor is in [1, 624]. -/
def Obligations.ExtractionTwistsLazily : Prop :=
  ∀ p : Prng,
    (p.cursor.val = 624 →
      mtExtract p = (temper (mtTwist p.mt)[0], { mt := mtTwist p.mt, cursor := 1, seeded := p.seeded })) ∧
    (∀ h : p.cursor.val < 624,
      (mtExtract p).1 = temper p.mt[p.cursor.val] ∧ (mtExtract p).2.mt = p.mt ∧
      (mtExtract p).2.cursor.val = p.cursor.val + 1 ∧ (mtExtract p).2.seeded = p.seeded) ∧
    1 ≤ (mtExtract p).2.cursor.val ∧ (mtExtract p).2.cursor.val ≤ 624

/-- R171, R156: NEXT puts the next tempered word into MT_OUT. When the MT is not seeded it is seeded first from one draw
of `time_now` (a free value, log 4); when it is, no draw is taken. Nothing else changes but DONE. -/
def Obligations.NextExtractsOneWord : Prop :=
  encodedBy 0x00000004 0xFFFFFFFF (fun _ => .next) ∧
  ∀ s : State,
    (s.prng.seeded = true → exec .next s =
      .next { s with mtOut := (mtExtract s.prng).1, prng := (mtExtract s.prng).2, done := true, busy := false }) ∧
    (s.prng.seeded = false → ∃ t, exec .next s = .next t ∧
      t = { s with
        mtOut := (mtExtract (mtSeed (Config.timeNow s.draws))).1
        prng := (mtExtract (mtSeed (Config.timeNow s.draws))).2
        draws := s.draws + 1, done := true, busy := false } ∧
      t.prng.seeded = true)

/-- R157: a request for `n` bytes extracts exactly ceil(n/4) words. -/
def Obligations.ByteRequestWordCount : Prop :=
  ∀ (n : Nat) (s : State), (mtBytes n s).2 = afterWords ((n + 3) / 4) s

/-- R158: `n` bytes; each whole group is a word big-endian, and the remainder is the trailing bytes of one more word. -/
def Obligations.ByteRequestAssembly : Prop :=
  ∀ (n : Nat) (s : State), (mtBytes n s).1.length = n ∧
    (∀ j, j < 4 * (n / 4) → (mtBytes n s).1[j]? = (bytesBE32 (streamWord (j / 4) s))[j % 4]?) ∧
    (∀ j, 4 * (n / 4) ≤ j → j < n →
      (mtBytes n s).1[j]? = (bytesBE32 (streamWord (n / 4) s))[4 - n % 4 + j % 4]?)

/-- R159: after SEED with the same seed, the words and the bytes of every list of requests are the same, whatever the two
states were. -/
def Obligations.StreamIsFunctionOfSeed : Prop :=
  ∀ s s' t t' : State, s.mtSeed = s'.mtSeed → exec .seed s = .next t → exec .seed s' = .next t' →
    (∀ k, streamWord k t = streamWord k t') ∧ (∀ requests, byteStream requests t = byteStream requests t')

/-- R161: with the hardware source, `n` fresh entropy bytes in order, the MT state neither read nor written; without it,
the fallback generator's bytes. The draw number is the model's (log 5), the values are free. -/
def Obligations.RandomBytesComeFromSelectedSource : Prop :=
  ∀ (n : Nat) (s : State),
    (s.srcHw = true → (randomBytes n s).2 = { s with draws := s.draws + n } ∧
      (randomBytes n s).1.length = n ∧
      ∀ j, j < n → (randomBytes n s).1[j]? = some (Config.entropyByte (s.draws + j))) ∧
    (s.srcHw = false → randomBytes n s = mtBytes n s)

/-- R172: RAND fills RNDBUF with `n` bytes of the selected source and zeros, and RND_LEN with `n`; nothing else changes
but what drawing the bytes changes and DONE, and RAND 0 draws nothing. NOT_INIT comes before LEN_RANGE. -/
def Obligations.RandFillsRandomBuffer : Prop :=
  encodedBy 0x00000005 0x0000FFFF (fun w => .rand (w.toNat / 65536)) ∧
  ∀ (s : State) (n : Nat),
    (s.initd = false → endsInError (.rand n) s .notInit) ∧
    (s.initd = true → 64 < n → endsInError (.rand n) s .lenRange) ∧
    (s.initd = true → n ≤ 64 → ∃ t, exec (.rand n) s = .next t ∧
      t.readBytes 0x0300 64 = (randomBytes n s).1 ++ List.replicate (64 - n) 0 ∧
      t.rndLen.toNat = n ∧
      sameBytesOutside 0x0300 64 s t ∧
      t = { s with
        mem := t.mem, rndLen := t.rndLen, prng := (randomBytes n s).2.prng, draws := (randomBytes n s).2.draws
        done := true, busy := false } ∧
      (s.srcHw = true ∨ n = 0 → t.prng = s.prng))

/-! ### Packet Decoder (42_decoder) -/

/-- R191 to R194: length first, then the magic, then a non-zero checksum field; an accepted datagram gives its id, its
flags, bit 0 of them, and whether a checksum was verified. No byte after offset 11 matters but through the checksum. -/
def Obligations.DecodeValidatesInOrder : Prop :=
  ∀ D : List Byte,
    let field := (D.getD 2 0).toNat * 256 + (D.getD 3 0).toNat
    let goodMagic := D.getD 0 0 = 0x32 ∧ D.getD 1 0 = 0x50
    let goodChecksum := field = 0 ∨ (cksum (zeroField D)).toNat = field
    (D.length < 12 → decodeDatagram D = .discard .short) ∧
    (12 ≤ D.length → ¬ goodMagic → decodeDatagram D = .discard .magic) ∧
    (12 ≤ D.length → goodMagic → ¬ goodChecksum → decodeDatagram D = .discard .checksum) ∧
    (12 ≤ D.length → goodMagic → goodChecksum →
      decodeDatagram D = .accept ((D.drop 4).take 6)
        (BitVec.ofNat 16 ((D.getD 10 0).toNat * 256 + (D.getD 11 0).toNat)) ((D.getD 11 0).getLsbD 0)
        (decide (field ≠ 0)))

/-- R197, with R190, R195 and R196: DECODE fails with LEN_RANGE when RX_LEN > RX_CAP; otherwise it finishes, writing
DEC_RESULT, and on an accept also DEC_FLAGS, MSGID_HI and MSGID_LO, and nothing else. DEC_RESULT as a word is
rr << 1 | ckp << 2 | 1 on an accept, code(reason) << 4 on a discard. -/
def Obligations.DecodeWritesResultRegisters : Prop :=
  encodedBy 0x00000006 0xFFFFFFFF (fun _ => .decode) ∧
  (∀ rr ckp : Bool, (DecResult.word ⟨true, rr, ckp, none⟩).toNat = rr.toNat * 2 + ckp.toNat * 4 + 1) ∧
  (∀ reason : Discard, (DecResult.word ⟨false, false, false, some reason⟩).toNat =
    16 * (match reason with
      | .short => 1
      | .magic => 2
      | .checksum => 3)) ∧
  ∀ s : State,
    (Config.rxCap < s.rxLen.toNat → endsInError .decode s .lenRange) ∧
    (∀ reason, s.rxLen.toNat ≤ Config.rxCap →
      decodeDatagram (s.readBytes 0x8000 s.rxLen.toNat) = .discard reason →
      exec .decode s =
        .next { s with decResult := ⟨false, false, false, some reason⟩, done := true, busy := false }) ∧
    (∀ id flags rr ckp, s.rxLen.toNat ≤ Config.rxCap →
      decodeDatagram (s.readBytes 0x8000 s.rxLen.toNat) = .accept id flags rr ckp →
      exec .decode s =
        .next { s with
          msgidHi := be32 id 0, msgidLo := be16 id 4, decFlags := flags, decResult := ⟨true, rr, ckp, none⟩
          done := true, busy := false })

/-- R198: for every RX_LEN <= RX_CAP and every content of RXBUF, DECODE ends with `finish()` after one engine step, and
the engine then accepts the next command. No input makes the engine stall or fault: every step has a next state. -/
def Obligations.DecodeAlwaysFinishes : Prop :=
  (∀ s : State, s.engineTurn → s.pending = 0x00000006 → s.rxLen.toNat ≤ Config.rxCap →
    ∃ t, step s = .next t ∧ t.done = true ∧ t.busy = false ∧ t.err = s.err ∧ t.errcode = s.errcode ∧
      ∀ w, hostWrite 0x000 w t = { t with pending := w, busy := true }) ∧
  (∀ s : State, ∃ t, step s = .next t)

/-! ### Reply Encoder (43_encoder) -/

/-- R213, with R210 to R212: REPLY fails with NOT_INIT before INIT; otherwise it sets TXV, and for a banner of at most 100
bytes TXBUF is the reply of R102 with its checksum filled, 6 fresh random bytes and the id of MSGID. Nothing else
changes but what drawing the bytes changes and DONE. -/
def Obligations.ReplyBuildsReply : Prop :=
  encodedBy 0x00000007 0xFFFFFFFF (fun _ => .reply) ∧
  ∀ s : State,
    (s.initd = false → endsInError .reply s .notInit) ∧
    (s.initd = true → ∃ t, exec .reply s = .next t ∧
      (s.bannerLen.toNat ≤ 100 →
        t.readBytes 0x0100 128 = checksummedReply (randomBytes 6 s).1 (bytesBE32 s.msgidHi ++ bytesBE16 s.msgidLo)
          (s.readBytes 0x0200 s.bannerLen.toNat)) ∧
      sameBytesOutside 0x0100 128 s t ∧
      t = { s with
        mem := t.mem, prng := (randomBytes 6 s).2.prng, draws := (randomBytes 6 s).2.draws, txv := true
        done := true, busy := false } ∧
      (s.srcHw = true → t.prng = s.prng))

/-- R216: the reply in TXBUF verifies: its checksum field is the checksum of its zero-field view and is not 0, and the
decoder accepts it with its own fresh id, the flags 0x8002 and no reply requested. -/
def Obligations.BuiltReplyVerifies : Prop :=
  ∀ s : State, s.initd = true → s.bannerLen.toNat ≤ 100 → ∃ t, exec .reply s = .next t ∧
    cksum (zeroField (t.readBytes 0x0100 128)) = be16 (t.readBytes 0x0100 128) 2 ∧
    be16 (t.readBytes 0x0100 128) 2 ≠ 0 ∧
    decodeDatagram (t.readBytes 0x0100 128) = .accept (randomBytes 6 s).1 0x8002 false true

/-- R214: the populated region alone has the checksum of the whole buffer, so the field verifies over both. -/
def Obligations.PopulatedRegionHasSameChecksum : Prop :=
  ∀ s : State, s.initd = true → s.bannerLen.toNat ≤ 100 → ∃ t, exec .reply s = .next t ∧
    cksum (zeroField (t.readBytes 0x0100 (28 + s.bannerLen.toNat))) = cksum (zeroField (t.readBytes 0x0100 128)) ∧
    cksum (zeroField (t.readBytes 0x0100 128)) = be16 (t.readBytes 0x0100 128) 2

/-- R215: bytes 4 to 9 of the reply do not depend on the message id or on the inbound datagram: two engines that agree on
the generator and its source draw the same, whatever else differs. Bytes 14 to 19 are the message id. -/
def Obligations.ReplyIdIsIndependentOfMessage : Prop :=
  ∀ s s' t t' : State, s.initd = true → s'.initd = true →
    s.prng = s'.prng → s.srcHw = s'.srcHw → s.draws = s'.draws →
    exec .reply s = .next t → exec .reply s' = .next t' →
    t.readBytes 0x0104 6 = t'.readBytes 0x0104 6 ∧
    t.readBytes 0x010E 6 = bytesBE32 s.msgidHi ++ bytesBE16 s.msgidLo

/-- R221: PROCESS fails with NOT_INIT, then LEN_RANGE; otherwise it decodes as DECODE does and, when the datagram is
accepted with bit 0 set, builds the reply to the id just written and sets TXV; else it clears TXV and touches neither
TXBUF nor the generator. -/
def Obligations.ProcessDecodesThenReplies : Prop :=
  encodedBy 0x00000008 0xFFFFFFFF (fun _ => .process) ∧
  ∀ s : State,
    (s.initd = false → endsInError .process s .notInit) ∧
    (s.initd = true → Config.rxCap < s.rxLen.toNat → endsInError .process s .lenRange) ∧
    (∀ reason, s.initd = true → s.rxLen.toNat ≤ Config.rxCap →
      decodeDatagram (s.readBytes 0x8000 s.rxLen.toNat) = .discard reason →
      exec .process s =
        .next { s with
          decResult := ⟨false, false, false, some reason⟩, txv := false, done := true, busy := false }) ∧
    (∀ id flags ckp, s.initd = true → s.rxLen.toNat ≤ Config.rxCap →
      decodeDatagram (s.readBytes 0x8000 s.rxLen.toNat) = .accept id flags false ckp →
      exec .process s =
        .next { s with
          msgidHi := be32 id 0, msgidLo := be16 id 4, decFlags := flags, decResult := ⟨true, false, ckp, none⟩
          txv := false, done := true, busy := false }) ∧
    (∀ id flags ckp, s.initd = true → s.rxLen.toNat ≤ Config.rxCap →
      decodeDatagram (s.readBytes 0x8000 s.rxLen.toNat) = .accept id flags true ckp →
      ∃ t, exec .process s = .next t ∧
        (s.bannerLen.toNat ≤ 100 →
          t.readBytes 0x0100 128 =
            checksummedReply (randomBytes 6 s).1 id (s.readBytes 0x0200 s.bannerLen.toNat)) ∧
        sameBytesOutside 0x0100 128 s t ∧
        t = { s with
          mem := t.mem, prng := (randomBytes 6 s).2.prng, draws := (randomBytes 6 s).2.draws
          msgidHi := be32 id 0, msgidLo := be16 id 4, decFlags := flags, decResult := ⟨true, true, ckp, none⟩
          txv := true, done := true, busy := false })

/-- R106: an engine that is given a reply of its own kind, or the first bytes of one, never answers it: PROCESS builds
nothing, and it accepts the whole reply with its flags 0x8002 and no reply requested. -/
def Obligations.NoReplyToAReply : Prop :=
  ∀ s t u : State, s.initd = true → s.bannerLen.toNat ≤ 100 → exec .reply s = .next t →
    u.initd = true → u.rxLen.toNat ≤ 128 → u.rxLen.toNat ≤ Config.rxCap →
    u.readBytes 0x8000 u.rxLen.toNat = t.readBytes 0x0100 u.rxLen.toNat →
    ∃ v, exec .process u = .next v ∧ v.txv = false ∧ v.mem = u.mem ∧ v.prng = u.prng ∧ v.draws = u.draws ∧
      (u.rxLen = 128 → v.decFlags = 0x8002 ∧ v.decResult = ⟨true, false, true, none⟩)

/-! ### Registers and status (10_state) -/

/-- R25, R262: the bits of STATUS as a read gives them, ERRCODE by its number, and what a write of `v` clears: DONE by bit 1, TXV by bit 5, ERR and
ERRCODE by bit 2, nothing else. -/
def Obligations.StatusReadsAndClears : Prop :=
  (∀ s : State,
    let w := readReg .status s
    w.getLsbD 0 = s.busy ∧ w.getLsbD 1 = s.done ∧ w.getLsbD 2 = s.err ∧ w.getLsbD 3 = s.initd ∧
    w.getLsbD 4 = s.prng.seeded ∧ w.getLsbD 5 = s.txv ∧ w.getLsbD 6 = s.srcHw ∧ w.getLsbD 7 = false ∧
    w.toNat / 256 =
      match s.errcode with
      | .none => 0
      | .illegalCmd => 1
      | .busyOverrun => 2
      | .lenRange => 3
      | .notInit => 4
      | .config => 5
      | .alreadyInit => 6) ∧
  (∀ (s : State) (v : Word),
    hostWrite 0x004 v s = { s with
      done := s.done && !v.getLsbD 1
      txv := s.txv && !v.getLsbD 5
      err := s.err && !v.getLsbD 2
      errcode := if v.getLsbD 2 then .none else s.errcode })

/-- R48: `irq` is (DONE & DONE_IE) | (ERR & ERR_IE), as the host reads the bits in STATUS and IRQ_EN. -/
def Obligations.IrqIsLevelOfEnabledBits : Prop :=
  ∀ s : State, s.irq =
    (((readReg .status s).getLsbD 1 && (readReg .irqEn s).getLsbD 0) ||
      ((readReg .status s).getLsbD 2 && (readReg .irqEn s).getLsbD 1))

/-- R24, R264: a CMD write latches the word when no command is pending and overruns when one is; a read of CMD is 0. -/
def Obligations.CmdWriteLatchesOrOverruns : Prop :=
  ∀ (s : State) (w : Word),
    (s.busy = false → hostWrite 0x000 w s = { s with pending := w, busy := true }) ∧
    (s.busy = true → hostWrite 0x000 w s = { s with err := true, errcode := .busyOverrun }) ∧
    hostRead 0x000 s = (some 0, s)

/-- R26, R27, R29, R30, R32, R38, R39: a write, while no command runs, to a register the host can write changes that
register only (R74), reserved bits ignored, CONFIG and BANNER_LEN kept once `initd = 1`; the register reads back with its
reserved bits 0; and in every state in which no command runs it reads as the field it holds. -/
def Obligations.WritableRegistersReadBack : Prop :=
  (∀ (s : State) (v : Word), s.busy = false →
    hostWrite 0x008 v s = { s with doneIe := v.getLsbD 0, errIe := v.getLsbD 1 } ∧
    hostWrite 0x00C v s = (if s.initd then s else { s with forceMt := v.getLsbD 0 }) ∧
    hostWrite 0x014 v s = { s with rxLen := v.setWidth 16 } ∧
    hostWrite 0x018 v s = (if s.initd then s else { s with bannerLen := v.setWidth 8 }) ∧
    hostWrite 0x020 v s = { s with mtSeed := v } ∧
    hostWrite 0x038 v s = { s with msgidHi := v } ∧
    hostWrite 0x03C v s = { s with msgidLo := v.setWidth 16 }) ∧
  (∀ (s : State) (v : Word), s.busy = false →
    (hostRead 0x008 (hostWrite 0x008 v s)).1 = some (v &&& 0x3) ∧
    (hostRead 0x00C (hostWrite 0x00C v s)).1 = some (if s.initd then s.configWord else v &&& 0x1) ∧
    (hostRead 0x014 (hostWrite 0x014 v s)).1 = some (v &&& 0xFFFF) ∧
    (hostRead 0x018 (hostWrite 0x018 v s)).1 = some (if s.initd then s.bannerLen.setWidth 32 else v &&& 0xFF) ∧
    (hostRead 0x020 (hostWrite 0x020 v s)).1 = some v ∧
    (hostRead 0x038 (hostWrite 0x038 v s)).1 = some v ∧
    (hostRead 0x03C (hostWrite 0x03C v s)).1 = some (v &&& 0xFFFF)) ∧
  (∀ s : State, s.busy = false →
    (∃ w, hostRead 0x008 s = (some w, s) ∧ w.toNat = s.doneIe.toNat + 2 * s.errIe.toNat) ∧
    (∃ w, hostRead 0x00C s = (some w, s) ∧ w.toNat = s.forceMt.toNat) ∧
    hostRead 0x014 s = (some (s.rxLen.setWidth 32), s) ∧
    hostRead 0x018 s = (some (s.bannerLen.setWidth 32), s) ∧
    hostRead 0x020 s = (some s.mtSeed, s) ∧
    hostRead 0x038 s = (some s.msgidHi, s) ∧
    hostRead 0x03C s = (some (s.msgidLo.setWidth 32), s))

/-! ### The bus (20_memory, 70 R305 and R306) -/

/-- R63, R270, R305: a misaligned access, and a write while busy to anything but CMD, STATUS and IRQ_EN, is recorded in
`fault` and has no other effect; those three are written while busy as at any time. That a misaligned read gives no
value, and that a misaligned write while busy is one breach and not two, are the model's choices (log 16 and 17). -/
def Obligations.ContractBreachesAreOnlyRecorded : Prop :=
  (∀ (s : State) (a : Offset), a.toNat % 4 ≠ 0 →
    hostRead a s = (none, { s with fault := s.fault ++ [.misaligned] }) ∧
    ∀ v, hostWrite a v s = { s with fault := s.fault ++ [.misaligned] }) ∧
  (∀ (s : State) (a : Offset) (v : Word), a.toNat % 4 = 0 → s.busy = true →
    a ≠ 0x000 → a ≠ 0x004 → a ≠ 0x008 →
    hostWrite a v s = { s with fault := s.fault ++ [.writeWhileBusy] }) ∧
  (∀ (s : State) (v : Word), s.busy = true →
    hostWrite 0x000 v s = s.overrun ∧ hostWrite 0x004 v s = s.acknowledge v ∧
    hostWrite 0x008 v s = { s with doneIe := v.getLsbD 0, errIe := v.getLsbD 1 })

/-- R64: while no command runs, an aligned access to an unmapped offset reads 0 and a write there is ignored. -/
def Obligations.UnmappedOffsetsReadZero : Prop :=
  ∀ (s : State) (a : Offset), s.busy = false → a.toNat % 4 = 0 →
    (0x0040 ≤ a.toNat ∧ a.toNat ≤ 0x00FF ∨ 0x0180 ≤ a.toNat ∧ a.toNat ≤ 0x01FF ∨
      0x0264 ≤ a.toNat ∧ a.toNat ≤ 0x02FF ∨ 0x0340 ≤ a.toNat ∧ a.toNat ≤ 0x0FFF ∨
      0x19C0 ≤ a.toNat ∧ a.toNat ≤ 0x7FFF ∨ 0x8000 + Config.rxCap ≤ a.toNat) →
    hostRead a s = (some 0, s) ∧ ∀ v, hostWrite a v s = s

/-- R65, R66, R68: while no command runs, a read of the RXBUF window or, also after INIT, of the BANNER window gives the four
stored bytes big-endian and changes nothing; a word written to the RXBUF window, or to the BANNER window before INIT, is its
four bytes big-endian, reads back, and changes nothing else; after INIT the BANNER window ignores writes. -/
def Obligations.WindowsPackBigEndian : Prop :=
  ∀ (s : State) (a : Offset) (v : Word), s.busy = false → a.toNat % 4 = 0 →
    (0x8000 ≤ a.toNat ∧ a.toNat < 0x8000 + Config.rxCap ∨ 0x0200 ≤ a.toNat ∧ a.toNat ≤ 0x0263) →
    hostRead a s = (some (be32 (s.readBytes a.toNat 4) 0), s) ∧
    (a.toNat < 0x8000 → s.initd = true → hostWrite a v s = s) ∧
    (0x8000 ≤ a.toNat ∨ s.initd = false → ∃ t, hostWrite a v s = t ∧
      t = { s with mem := t.mem } ∧
      (∀ j, j < 4 → (t.readByte (a.toNat + j)).toNat = v.toNat / 2 ^ (24 - 8 * j) % 256) ∧
      sameBytesOutside a.toNat 4 s t ∧
      hostRead a t = (some v, t))

/-- R67, R69, R70, R40: while no command runs, writes to the TXBUF, RNDBUF and MT_STATE windows and to the read-only
registers are ignored, and the windows and PARAM, CK_RESULT, MT_OUT, MT_CURSOR, RND_LEN, DEC_RESULT and DEC_FLAGS (R28,
R31, R33 to R37) read as the bytes, words and fields they hold. -/
def Obligations.ReadOnlyStateIgnoresWrites : Prop :=
  (∀ (s : State) (a : Offset), s.busy = false → a.toNat % 4 = 0 →
    ((0x0100 ≤ a.toNat ∧ a.toNat ≤ 0x017F ∨ 0x0300 ≤ a.toNat ∧ a.toNat ≤ 0x033F) →
      (∀ v, hostWrite a v s = s) ∧ hostRead a s = (some (be32 (s.readBytes a.toNat 4) 0), s)) ∧
    (∀ (i : Nat) (h : i < 624), a.toNat = 0x1000 + 4 * i →
      (∀ v, hostWrite a v s = s) ∧ hostRead a s = (some s.prng.mt[i], s)) ∧
    (a ∈ [0x010, 0x01C, 0x024, 0x028, 0x02C, 0x030, 0x034] → ∀ v, hostWrite a v s = s)) ∧
  (∀ s : State, s.busy = false →
    (∃ w, hostRead 0x010 s = (some w, s) ∧ w.toNat = Config.rxCap + (if Config.hasTrng then 65536 else 0)) ∧
    hostRead 0x01C s = (some (s.ckResult.setWidth 32), s) ∧
    hostRead 0x024 s = (some s.mtOut, s) ∧
    (∃ w, hostRead 0x028 s = (some w, s) ∧ w.toNat = s.prng.cursor.val) ∧
    hostRead 0x02C s = (some (s.rndLen.setWidth 32), s) ∧
    (∃ w, hostRead 0x030 s = (some w, s) ∧
      w.toNat = s.decResult.acc.toNat + 2 * s.decResult.rr.toNat + 4 * s.decResult.ckp.toNat +
        16 * (match s.decResult.reason with
          | none => 0
          | some .short => 1
          | some .magic => 2
          | some .checksum => 3)) ∧
    hostRead 0x034 s = (some (s.decFlags.setWidth 32), s))

/-- R306: while a command runs, STATUS, IRQ_EN, CONFIG, PARAM, RX_LEN, BANNER_LEN, MT_SEED, the BANNER window and the RXBUF
window read as they are, CMD reads 0, and every other aligned read is a draw. That a draw is the
free value at the present draw number, which the read advances, is the model's choice (log 6); that an unmapped offset is
one of them is read from R306 (log 12). -/
def Obligations.BusyReadsOfCommandStateAreDraws : Prop :=
  ∀ (s : State) (a : Offset), s.busy = true → a.toNat % 4 = 0 →
    ((a ∈ [0x004, 0x008, 0x00C, 0x010, 0x014, 0x018, 0x020] ∨ 0x0200 ≤ a.toNat ∧ a.toNat ≤ 0x0263 ∨
        0x8000 ≤ a.toNat ∧ a.toNat < 0x8000 + Config.rxCap) →
      hostRead a s = (some (readRegion a s), s)) ∧
    (a = 0x000 → hostRead a s = (some 0, s)) ∧
    (a ∉ [0x000, 0x004, 0x008, 0x00C, 0x010, 0x014, 0x018, 0x020] →
      ¬ (0x0200 ≤ a.toNat ∧ a.toNat ≤ 0x0263) → ¬ (0x8000 ≤ a.toNat ∧ a.toNat < 0x8000 + Config.rxCap) →
      hostRead a s = (some (Config.busyRead s.draws), { s with draws := s.draws + 1 }))

/-- R97: the statements of a host program. WR writes, RD reads into `h`, JF reads into `h` and branches when the masked
value is `val`, J jumps, HALT stays; a WR, and an RD or JF of a value, moves on as the rule says. -/
def Obligations.HostStatementsActAsStated : Prop :=
  ∀ (s : State) (a : Offset) (mask val v w : Word) (target : Nat) (t : State),
    (s.host.prog[s.host.pos]? = some (.wr a v) →
      hostStep s = { hostWrite a v s with host := { s.host with pos := s.host.pos + 1 } }) ∧
    (s.host.prog[s.host.pos]? = some (.rd a) → hostRead a s = (some w, t) →
      hostStep s = { t with host := { s.host with pos := s.host.pos + 1, acc := w } }) ∧
    (s.host.prog[s.host.pos]? = some (.jf a mask val target) → hostRead a s = (some w, t) →
      hostStep s =
        { t with host := { s.host with pos := if w &&& mask = val then target else s.host.pos + 1, acc := w } }) ∧
    (s.host.prog[s.host.pos]? = some (.j target) → hostStep s = { s with host := { s.host with pos := target } }) ∧
    (s.host.prog[s.host.pos]? = some .halt → hostStep s = s)

/-! ### Whole-machine rules, over every step that is not a reset -/

/-- R44, with R27, R30 and R68: once `initd = 1`, no step but reset changes `initd`, `src_hw`, CONFIG, BANNER_LEN or a byte
of the banner; and a step but reset that changes `initd` or `src_hw` executes INIT and succeeds. -/
def Obligations.ConfigurationIsFrozenAfterInit : Prop :=
  ∀ s t : State, nextMove s ≠ .reset → step s = .next t →
    (s.initd = true →
      t.initd = true ∧ t.srcHw = s.srcHw ∧ t.forceMt = s.forceMt ∧ t.bannerLen = s.bannerLen ∧ sameBuffer .banner s t) ∧
    (t.initd ≠ s.initd ∨ t.srcHw ≠ s.srcHw →
      s.engineTurn ∧ decodeWord s.pending = .ok .init ∧ s.initd = false ∧ t.initd = true ∧ t.done = true)

/-- R43: no step but reset clears `seeded`, and only a seeding sets it: a step that sets it leaves the MT state a freshly
seeded one or one extraction or more after it, from MT_SEED or from the draw of `time_now`. That this draw is the free
value at the present draw number is the model's choice (log 4). -/
def Obligations.SeededIsSetBySeedingOnly : Prop :=
  ∀ s t : State, nextMove s ≠ .reset → step s = .next t →
    (s.prng.seeded = true → t.prng.seeded = true) ∧
    (s.prng.seeded = false → t.prng.seeded = true →
      t.prng = mtSeed s.mtSeed ∨
        ∃ k, t.prng = (afterWords (k + 1) { s with prng := mtSeed (Config.timeNow s.draws) }).prng)

/-- R46, R270: no step but reset removes a recorded host fault. That one step records at most one is the model's choice
(log 16): a misaligned write while busy records MISALIGNED only. -/
def Obligations.RecordedFaultsStay : Prop :=
  ∀ s t : State, nextMove s ≠ .reset → step s = .next t → t.fault = s.fault ∨ ∃ r, t.fault = s.fault ++ [r]

/-- A step but reset that changes CK_RESULT executes CKSUM (R31), MT_OUT: NEXT (R33), RND_LEN or RNDBUF: RAND (R35, R41),
DEC_RESULT or DEC_FLAGS: DECODE or PROCESS (R36, R37), TXBUF: REPLY or PROCESS (R41), the MT state, cursor or `seeded`: SEED,
NEXT, RAND, REPLY or PROCESS (R42, R150). One that changes MSGID is the host's or executes DECODE or PROCESS (R38, R39); one
that changes BANNER is the host's, before INIT, and one that changes RXBUF is the host's (R41). -/
def Obligations.EachResultHasItsWriter : Prop :=
  ∀ s t : State, nextMove s ≠ .reset → step s = .next t →
    (t.ckResult ≠ s.ckResult → ∃ sel zf n, s.engineTurn ∧ decodeWord s.pending = .ok (.cksum sel zf n)) ∧
    (t.mtOut ≠ s.mtOut → s.engineTurn ∧ decodeWord s.pending = .ok .next) ∧
    (t.rndLen ≠ s.rndLen ∨ ¬ sameBuffer .rndbuf s t → ∃ n, s.engineTurn ∧ decodeWord s.pending = .ok (.rand n)) ∧
    (t.decResult ≠ s.decResult ∨ t.decFlags ≠ s.decFlags →
      s.engineTurn ∧ (decodeWord s.pending = .ok .decode ∨ decodeWord s.pending = .ok .process)) ∧
    (t.msgidHi ≠ s.msgidHi ∨ t.msgidLo ≠ s.msgidLo →
      nextMove s = .host ∨
        s.engineTurn ∧ (decodeWord s.pending = .ok .decode ∨ decodeWord s.pending = .ok .process)) ∧
    (t.prng ≠ s.prng →
      s.engineTurn ∧ ∃ i, decodeWord s.pending = .ok i ∧
        (i = .seed ∨ i = .next ∨ (∃ n, i = .rand n) ∨ i = .reply ∨ i = .process)) ∧
    (¬ sameBuffer .txbuf s t →
      s.engineTurn ∧ (decodeWord s.pending = .ok .reply ∨ decodeWord s.pending = .ok .process)) ∧
    (¬ sameBuffer .banner s t → nextMove s = .host ∧ s.initd = false) ∧
    (¬ sameBuffer .rxbuf s t → nextMove s = .host)

/-! ### Reset and the invariant (70_reset_and_hazards) -/

/-- R301: what the host reads right after reset: every register 0 but MT_CURSOR = 624 and PARAM, which holds RX_CAP and
HAS_TRNG; no command pending, no fault, `irq` = 0. The unspecified contents are free values: that a buffer byte
is `powerOnByte` (log 7) and an MT word `powerOnWord` (log 8), both numbered by the reset (log 14), is the model's choice. -/
def Obligations.ResetValues : Prop :=
  (∀ a ∈ ([0x000, 0x004, 0x008, 0x00C, 0x014, 0x018, 0x01C, 0x020, 0x024, 0x02C, 0x030, 0x034, 0x038, 0x03C] :
      List Offset), hostRead a State.reset = (some 0, State.reset)) ∧
  hostRead 0x028 State.reset = (some 624, State.reset) ∧
  (∃ w, hostRead 0x010 State.reset = (some w, State.reset) ∧
    w.toNat = Config.rxCap + (if Config.hasTrng then 65536 else 0)) ∧
  State.reset.busy = false ∧ State.reset.pending = 0 ∧ State.reset.fault = [] ∧ State.reset.irq = false ∧
  (∀ a, State.reset.readByte a = Config.powerOnByte 0 a) ∧
  (∀ (i : Nat) (h : i < 624), State.reset.prng.mt[i] = Config.powerOnWord 0 i)

/-- R300: when reset is released, in one step, every piece of engine state takes its reset value, whatever it was. That
the host, the schedule and the draw number stay, and that `resets` counts the release and numbers the free contents of
the buffers, are the model's choices (log 7, log 14). -/
def Obligations.ResetReleaseRestoresResetValues : Prop :=
  ∀ s : State, nextMove s = .reset → ∃ t, step s = .next t ∧
    t.statusWord = 0 ∧ t.busy = false ∧ t.pending = 0 ∧ t.fault = [] ∧ t.mem = [] ∧ t.prng.cursor.val = 624 ∧
    t.host = s.host ∧
    t = { State.reset with
      prng := t.prng, host := s.host, sched := s.sched.tail, draws := s.draws, resets := s.resets + 1 } ∧
    ∀ a, t.readByte a = Config.powerOnByte (s.resets + 1) a

/-- The invariant of the machine holds right after reset. -/
def Obligations.InvariantHoldsAtReset : Prop := State.reset.Inv

/-- The invariant of the machine is kept by every step, of every agent, from every state that meets it. -/
def Obligations.EveryStepKeepsInvariant : Prop := ∀ s t : State, s.Inv → step s = .next t → t.Inv

/-- R98: the pseudo-statements expand as the table says, WAIT spins while BUSY = 1, and CLR clears DONE, ERR and TXV. The
offsets of LOADB are the table's where they are offsets at all, below 0x10000. -/
def Obligations.PseudoStatementsExpand : Prop :=
  (∀ (position : Nat → Option Nat) (pos : Nat),
    AsmLine.expand position pos (.command .nop) = some [.wr 0x000 0x00000000] ∧
    AsmLine.expand position pos (.command .init) = some [.wr 0x000 0x00000001] ∧
    AsmLine.expand position pos (.command .seed) = some [.wr 0x000 0x00000003] ∧
    AsmLine.expand position pos (.command .next) = some [.wr 0x000 0x00000004] ∧
    AsmLine.expand position pos (.command .decode) = some [.wr 0x000 0x00000006] ∧
    AsmLine.expand position pos (.command .reply) = some [.wr 0x000 0x00000007] ∧
    AsmLine.expand position pos (.command .process) = some [.wr 0x000 0x00000008] ∧
    AsmLine.expand position pos .wait = some [.jf 0x004 0x1 0x1 pos] ∧
    AsmLine.expand position pos .clr = some [.wr 0x004 0x00000026]) ∧
  (∀ s : State, s.host.prog[s.host.pos]? = some (.jf 0x004 0x1 0x1 s.host.pos) →
    (hostStep s).host.pos = if s.busy then s.host.pos else s.host.pos + 1) ∧
  (∀ s : State, hostWrite 0x004 0x00000026 s =
    { s with done := false, txv := false, err := false, errcode := .none }) ∧
  (∀ (position : Nat → Option Nat) (pos n : Nat), n < 65536 →
    AsmLine.expand position pos (.command (.cksum .rx false n)) = some [.wr 0x000 (BitVec.ofNat 32 (n * 65536 + 0x002))] ∧
    AsmLine.expand position pos (.command (.cksum .tx false n)) = some [.wr 0x000 (BitVec.ofNat 32 (n * 65536 + 0x102))] ∧
    AsmLine.expand position pos (.command (.cksum .rx true n)) = some [.wr 0x000 (BitVec.ofNat 32 (n * 65536 + 0x202))] ∧
    AsmLine.expand position pos (.command (.cksum .tx true n)) = some [.wr 0x000 (BitVec.ofNat 32 (n * 65536 + 0x302))] ∧
    AsmLine.expand position pos (.command (.rand n)) = some [.wr 0x000 (BitVec.ofNat 32 (n * 65536 + 0x005))]) ∧
  (∀ (position : Nat → Option Nat) (pos win i : Nat) (bytes : List Byte), i % 4 = 0 →
    ∃ stmts, AsmLine.expand position pos (.loadb win i bytes) = some stmts ∧
      stmts.length = (bytes.length + 3) / 4 ∧
      ∀ j, 4 * j < bytes.length → ∃ off : Offset,
        stmts[j]? = some (.wr off (be32 (bytes.drop (4 * j) ++ [0, 0, 0]) 0)) ∧
        (win + i + 4 * j < 65536 → off.toNat = win + i + 4 * j))

/-- The model's choice (log 26): a group of LOADB that R98 puts past 0xFFFF is written at that number modulo 2^16, since an
offset has 16 bits (R60); every group keeps its own word, and none is dropped. -/
def Obligations.LoadbOffsetsWrap : Prop :=
  ∀ (position : Nat → Option Nat) (pos win i : Nat) (bytes : List Byte), i % 4 = 0 →
    ∃ stmts, AsmLine.expand position pos (.loadb win i bytes) = some stmts ∧
      ∀ j, 4 * j < bytes.length → ∃ off : Offset,
        stmts[j]? = some (.wr off (be32 (bytes.drop (4 * j) ++ [0, 0, 0]) 0)) ∧ off.toNat = (win + i + 4 * j) % 65536
end

