-- ==== Sys2Proof/Laws/Bytes.lean ====
section
/-!
SUPPORT. Bytes and words: the value of each byte of a word, and the round trips between words and their big-endian bytes
(00_scope R9).
-/
namespace Sys2Proof.Machine

theorem toNat_byteOf {w : Nat} (v : BitVec w) (k : Nat) : (v.extractLsb' k 8).toNat = v.toNat / 2 ^ k % 256 := by
  rw [BitVec.extractLsb'_toNat, Nat.shiftRight_eq_div_pow]

theorem toNat_be16 (B : List Byte) (i : Nat) :
    (be16 B i).toNat = (byteAt B i).toNat * 256 + (byteAt B (i + 1)).toNat := by
  have h0 := (byteAt B i).isLt
  have h1 := (byteAt B (i + 1)).isLt
  rw [be16, BitVec.toNat_ofNat]
  exact Nat.mod_eq_of_lt (by omega)

theorem toNat_be32 (B : List Byte) (i : Nat) :
    (be32 B i).toNat = (byteAt B i).toNat * 16777216 + (byteAt B (i + 1)).toNat * 65536 +
      (byteAt B (i + 2)).toNat * 256 + (byteAt B (i + 3)).toNat := by
  have h0 := (byteAt B i).isLt
  have h1 := (byteAt B (i + 1)).isLt
  have h2 := (byteAt B (i + 2)).isLt
  have h3 := (byteAt B (i + 3)).isLt
  rw [be32, BitVec.toNat_ofNat]
  exact Nat.mod_eq_of_lt (by omega)

/-- The bytes of a word made of four bytes are these bytes. -/
theorem bytesBE32_be32 (a b c d : Byte) (rest : List Byte) :
    bytesBE32 (be32 (a :: b :: c :: d :: rest) 0) = [a, b, c, d] := by
  have h : (be32 (a :: b :: c :: d :: rest) 0).toNat =
      a.toNat * 16777216 + b.toNat * 65536 + c.toNat * 256 + d.toNat := toNat_be32 _ 0
  generalize be32 (a :: b :: c :: d :: rest) 0 = v at h
  have ha := a.isLt
  have hb := b.isLt
  have hc := c.isLt
  have hd := d.isLt
  have e3 : v.extractLsb' 24 8 = a := by apply BitVec.eq_of_toNat_eq; rw [toNat_byteOf, h]; norm_num; omega
  have e2 : v.extractLsb' 16 8 = b := by apply BitVec.eq_of_toNat_eq; rw [toNat_byteOf, h]; norm_num; omega
  have e1 : v.extractLsb' 8 8 = c := by apply BitVec.eq_of_toNat_eq; rw [toNat_byteOf, h]; norm_num; omega
  have e0 : v.extractLsb' 0 8 = d := by apply BitVec.eq_of_toNat_eq; rw [toNat_byteOf, h]; norm_num; omega
  rw [bytesBE32, e3, e2, e1, e0]

/-- The bytes of a 16-bit value made of two bytes are these bytes. -/
theorem bytesBE16_be16 (B : List Byte) (i : Nat) : bytesBE16 (be16 B i) = [byteAt B i, byteAt B (i + 1)] := by
  have h := toNat_be16 B i
  generalize be16 B i = v at h
  have ha := (byteAt B i).isLt
  have hb := (byteAt B (i + 1)).isLt
  have e1 : v.extractLsb' 8 8 = byteAt B i := by apply BitVec.eq_of_toNat_eq; rw [toNat_byteOf, h]; norm_num; omega
  have e0 : v.extractLsb' 0 8 = byteAt B (i + 1) := by
    apply BitVec.eq_of_toNat_eq; rw [toNat_byteOf, h]; norm_num; omega
  rw [bytesBE16, e1, e0]

/-- A word is the one its bytes make. -/
theorem be32_bytesBE32 (v : Word) (rest : List Byte) : be32 (bytesBE32 v ++ rest) 0 = v := by
  have hv := v.isLt
  apply BitVec.eq_of_toNat_eq
  rw [toNat_be32]
  show (v.extractLsb' 24 8).toNat * 16777216 + (v.extractLsb' 16 8).toNat * 65536 +
    (v.extractLsb' 8 8).toNat * 256 + (v.extractLsb' 0 8).toNat = _
  rw [toNat_byteOf, toNat_byteOf, toNat_byteOf, toNat_byteOf]
  norm_num
  omega

/-- A 16-bit value is the one its bytes make, wherever they stand. -/
theorem be16_bytesBE16 (before : List Byte) (v : Half) (rest : List Byte) :
    be16 (before ++ bytesBE16 v ++ rest) before.length = v := by
  have hv := v.isLt
  have e0 : byteAt (before ++ bytesBE16 v ++ rest) before.length = v.extractLsb' 8 8 := by
    simp [byteAt, bytesBE16, List.getD_eq_getElem?_getD]
  have e1 : byteAt (before ++ bytesBE16 v ++ rest) (before.length + 1) = v.extractLsb' 0 8 := by
    simp [byteAt, bytesBE16, List.getD_eq_getElem?_getD]
  apply BitVec.eq_of_toNat_eq
  rw [toNat_be16, e0, e1, toNat_byteOf, toNat_byteOf]
  norm_num
  omega

@[simp] theorem length_bytesBE16 (v : Half) : (bytesBE16 v).length = 2 := rfl

@[simp] theorem length_bytesBE32 (v : Word) : (bytesBE32 v).length = 4 := rfl

@[simp] theorem length_zeros (n : Nat) : (zeros n).length = n := by simp [zeros]

end Sys2Proof.Machine
end

