-- ==== Sys2Proof/Laws/Checksum.lean ====
section
/-!
SUPPORT. The checksum in numbers: the fold, the accumulator over zeros, its bound, and the value of the result
(40_checksum R130).
-/
namespace Sys2Proof.Machine

theorem fold_eq (acc : Nat) : fold acc = acc / 65536 + acc % 65536 := by
  rw [fold, Nat.shiftRight_eq_div_pow, show (0xFFFF : Nat) = 2 ^ 16 - 1 from rfl, Nat.and_two_pow_sub_one_eq_mod]

theorem wordSum_zeros (k : Nat) : wordSum (List.replicate k 0) = 0 := by
  induction k using Nat.strongRecOn with
  | ind k ih =>
    match k with
    | 0 => rfl
    | 1 => simp [wordSum]
    | k + 2 => simpa [List.replicate_succ, wordSum] using ih k (by omega)

/-- Zero bytes at the end add nothing, whether the length before them is even or odd. -/
theorem wordSum_append_zeros (B : List Byte) (k : Nat) : wordSum (B ++ List.replicate k 0) = wordSum B := by
  fun_induction wordSum B with
  | case1 => exact wordSum_zeros k
  | case2 hi =>
    match k with
    | 0 => simp [wordSum]
    | k + 1 => simpa [List.replicate_succ, wordSum] using wordSum_zeros k
  | case3 hi lo rest ih => simpa [wordSum] using ih

theorem wordSum_le (B : List Byte) : wordSum B ≤ 65535 * ((B.length + 1) / 2) := by
  fun_induction wordSum B with
  | case1 => simp
  | case2 hi => have := hi.isLt; simp; omega
  | case3 hi lo rest ih => have := hi.isLt; have := lo.isLt; simp; omega

theorem wordSum_eq_zero_iff (B : List Byte) : wordSum B = 0 ↔ ∀ b ∈ B, b = 0 := by
  have e : ∀ b : Byte, b.toNat = 0 ↔ b = 0 := fun b => by rw [← BitVec.toNat_inj]; rfl
  fun_induction wordSum B with
  | case1 => simp
  | case2 hi => simp [e]
  | case3 hi lo rest ih => simp [ih, e]; tauto

/-- The checksum as a number. -/
theorem toNat_cksum (B : List Byte) :
    (cksum B).toNat =
      if 65535 - fold (fold (wordSum B)) % 65536 = 0 then 65535 else 65535 - fold (fold (wordSum B)) % 65536 := by
  have h : (~~~(BitVec.ofNat 16 (fold (fold (wordSum B))))).toNat = 65535 - fold (fold (wordSum B)) % 65536 := by
    rw [BitVec.toNat_not]; simp
  unfold cksum
  simp only []
  split
  · next h0 => rw [h0] at h; rw [← h]; simp
  · next h0 =>
    have : (~~~(BitVec.ofNat 16 (fold (fold (wordSum B))))).toNat ≠ 0 :=
      fun hc => h0 (BitVec.eq_of_toNat_eq (by simpa using hc))
    rw [h] at this
    simp only [this, if_false, h]

@[simp] theorem length_zeroField (B : List Byte) : (zeroField B).length = B.length := by simp [zeroField]

end Sys2Proof.Machine
end

