-- ==== Sys2Proof/Laws/State.lean ====
section
/-!
SUPPORT. What each named update of State does to each field, one simp lemma per field, so that no later proof unfolds an
update.
-/
namespace Sys2Proof.Machine

/-! ### `finish` -/

@[simp] theorem finish_done (s : State) : s.finish.done = true := rfl
@[simp] theorem finish_err (s : State) : s.finish.err = s.err := rfl
@[simp] theorem finish_errcode (s : State) : s.finish.errcode = s.errcode := rfl
@[simp] theorem finish_txv (s : State) : s.finish.txv = s.txv := rfl
@[simp] theorem finish_busy (s : State) : s.finish.busy = false := rfl
@[simp] theorem finish_pending (s : State) : s.finish.pending = s.pending := rfl
@[simp] theorem finish_initd (s : State) : s.finish.initd = s.initd := rfl
@[simp] theorem finish_srcHw (s : State) : s.finish.srcHw = s.srcHw := rfl
@[simp] theorem finish_doneIe (s : State) : s.finish.doneIe = s.doneIe := rfl
@[simp] theorem finish_errIe (s : State) : s.finish.errIe = s.errIe := rfl
@[simp] theorem finish_forceMt (s : State) : s.finish.forceMt = s.forceMt := rfl
@[simp] theorem finish_rxLen (s : State) : s.finish.rxLen = s.rxLen := rfl
@[simp] theorem finish_bannerLen (s : State) : s.finish.bannerLen = s.bannerLen := rfl
@[simp] theorem finish_ckResult (s : State) : s.finish.ckResult = s.ckResult := rfl
@[simp] theorem finish_mtSeed (s : State) : s.finish.mtSeed = s.mtSeed := rfl
@[simp] theorem finish_mtOut (s : State) : s.finish.mtOut = s.mtOut := rfl
@[simp] theorem finish_rndLen (s : State) : s.finish.rndLen = s.rndLen := rfl
@[simp] theorem finish_decResult (s : State) : s.finish.decResult = s.decResult := rfl
@[simp] theorem finish_decFlags (s : State) : s.finish.decFlags = s.decFlags := rfl
@[simp] theorem finish_msgidHi (s : State) : s.finish.msgidHi = s.msgidHi := rfl
@[simp] theorem finish_msgidLo (s : State) : s.finish.msgidLo = s.msgidLo := rfl
@[simp] theorem finish_prng (s : State) : s.finish.prng = s.prng := rfl
@[simp] theorem finish_mem (s : State) : s.finish.mem = s.mem := rfl
@[simp] theorem finish_fault (s : State) : s.finish.fault = s.fault := rfl
@[simp] theorem finish_host (s : State) : s.finish.host = s.host := rfl
@[simp] theorem finish_sched (s : State) : s.finish.sched = s.sched := rfl
@[simp] theorem finish_draws (s : State) : s.finish.draws = s.draws := rfl
@[simp] theorem finish_resets (s : State) : s.finish.resets = s.resets := rfl

/-! ### `raiseError` -/

@[simp] theorem raiseError_done (c : ErrCode) (s : State) : (s.raiseError c).done = s.done := rfl
@[simp] theorem raiseError_err (c : ErrCode) (s : State) : (s.raiseError c).err = true := rfl
@[simp] theorem raiseError_errcode (c : ErrCode) (s : State) : (s.raiseError c).errcode = c := rfl
@[simp] theorem raiseError_txv (c : ErrCode) (s : State) : (s.raiseError c).txv = s.txv := rfl
@[simp] theorem raiseError_busy (c : ErrCode) (s : State) : (s.raiseError c).busy = false := rfl
@[simp] theorem raiseError_pending (c : ErrCode) (s : State) : (s.raiseError c).pending = s.pending := rfl
@[simp] theorem raiseError_initd (c : ErrCode) (s : State) : (s.raiseError c).initd = s.initd := rfl
@[simp] theorem raiseError_srcHw (c : ErrCode) (s : State) : (s.raiseError c).srcHw = s.srcHw := rfl
@[simp] theorem raiseError_doneIe (c : ErrCode) (s : State) : (s.raiseError c).doneIe = s.doneIe := rfl
@[simp] theorem raiseError_errIe (c : ErrCode) (s : State) : (s.raiseError c).errIe = s.errIe := rfl
@[simp] theorem raiseError_forceMt (c : ErrCode) (s : State) : (s.raiseError c).forceMt = s.forceMt := rfl
@[simp] theorem raiseError_rxLen (c : ErrCode) (s : State) : (s.raiseError c).rxLen = s.rxLen := rfl
@[simp] theorem raiseError_bannerLen (c : ErrCode) (s : State) : (s.raiseError c).bannerLen = s.bannerLen := rfl
@[simp] theorem raiseError_ckResult (c : ErrCode) (s : State) : (s.raiseError c).ckResult = s.ckResult := rfl
@[simp] theorem raiseError_mtSeed (c : ErrCode) (s : State) : (s.raiseError c).mtSeed = s.mtSeed := rfl
@[simp] theorem raiseError_mtOut (c : ErrCode) (s : State) : (s.raiseError c).mtOut = s.mtOut := rfl
@[simp] theorem raiseError_rndLen (c : ErrCode) (s : State) : (s.raiseError c).rndLen = s.rndLen := rfl
@[simp] theorem raiseError_decResult (c : ErrCode) (s : State) : (s.raiseError c).decResult = s.decResult := rfl
@[simp] theorem raiseError_decFlags (c : ErrCode) (s : State) : (s.raiseError c).decFlags = s.decFlags := rfl
@[simp] theorem raiseError_msgidHi (c : ErrCode) (s : State) : (s.raiseError c).msgidHi = s.msgidHi := rfl
@[simp] theorem raiseError_msgidLo (c : ErrCode) (s : State) : (s.raiseError c).msgidLo = s.msgidLo := rfl
@[simp] theorem raiseError_prng (c : ErrCode) (s : State) : (s.raiseError c).prng = s.prng := rfl
@[simp] theorem raiseError_mem (c : ErrCode) (s : State) : (s.raiseError c).mem = s.mem := rfl
@[simp] theorem raiseError_fault (c : ErrCode) (s : State) : (s.raiseError c).fault = s.fault := rfl
@[simp] theorem raiseError_host (c : ErrCode) (s : State) : (s.raiseError c).host = s.host := rfl
@[simp] theorem raiseError_sched (c : ErrCode) (s : State) : (s.raiseError c).sched = s.sched := rfl
@[simp] theorem raiseError_draws (c : ErrCode) (s : State) : (s.raiseError c).draws = s.draws := rfl
@[simp] theorem raiseError_resets (c : ErrCode) (s : State) : (s.raiseError c).resets = s.resets := rfl

/-! ### `overrun` -/

@[simp] theorem overrun_done (s : State) : s.overrun.done = s.done := rfl
@[simp] theorem overrun_err (s : State) : s.overrun.err = true := rfl
@[simp] theorem overrun_errcode (s : State) : s.overrun.errcode = .busyOverrun := rfl
@[simp] theorem overrun_txv (s : State) : s.overrun.txv = s.txv := rfl
@[simp] theorem overrun_busy (s : State) : s.overrun.busy = s.busy := rfl
@[simp] theorem overrun_pending (s : State) : s.overrun.pending = s.pending := rfl
@[simp] theorem overrun_initd (s : State) : s.overrun.initd = s.initd := rfl
@[simp] theorem overrun_srcHw (s : State) : s.overrun.srcHw = s.srcHw := rfl
@[simp] theorem overrun_doneIe (s : State) : s.overrun.doneIe = s.doneIe := rfl
@[simp] theorem overrun_errIe (s : State) : s.overrun.errIe = s.errIe := rfl
@[simp] theorem overrun_forceMt (s : State) : s.overrun.forceMt = s.forceMt := rfl
@[simp] theorem overrun_rxLen (s : State) : s.overrun.rxLen = s.rxLen := rfl
@[simp] theorem overrun_bannerLen (s : State) : s.overrun.bannerLen = s.bannerLen := rfl
@[simp] theorem overrun_ckResult (s : State) : s.overrun.ckResult = s.ckResult := rfl
@[simp] theorem overrun_mtSeed (s : State) : s.overrun.mtSeed = s.mtSeed := rfl
@[simp] theorem overrun_mtOut (s : State) : s.overrun.mtOut = s.mtOut := rfl
@[simp] theorem overrun_rndLen (s : State) : s.overrun.rndLen = s.rndLen := rfl
@[simp] theorem overrun_decResult (s : State) : s.overrun.decResult = s.decResult := rfl
@[simp] theorem overrun_decFlags (s : State) : s.overrun.decFlags = s.decFlags := rfl
@[simp] theorem overrun_msgidHi (s : State) : s.overrun.msgidHi = s.msgidHi := rfl
@[simp] theorem overrun_msgidLo (s : State) : s.overrun.msgidLo = s.msgidLo := rfl
@[simp] theorem overrun_prng (s : State) : s.overrun.prng = s.prng := rfl
@[simp] theorem overrun_mem (s : State) : s.overrun.mem = s.mem := rfl
@[simp] theorem overrun_fault (s : State) : s.overrun.fault = s.fault := rfl
@[simp] theorem overrun_host (s : State) : s.overrun.host = s.host := rfl
@[simp] theorem overrun_sched (s : State) : s.overrun.sched = s.sched := rfl
@[simp] theorem overrun_draws (s : State) : s.overrun.draws = s.draws := rfl
@[simp] theorem overrun_resets (s : State) : s.overrun.resets = s.resets := rfl

/-! ### `recordFault` -/

@[simp] theorem recordFault_done (r : HostFault) (s : State) : (s.recordFault r).done = s.done := rfl
@[simp] theorem recordFault_err (r : HostFault) (s : State) : (s.recordFault r).err = s.err := rfl
@[simp] theorem recordFault_errcode (r : HostFault) (s : State) : (s.recordFault r).errcode = s.errcode := rfl
@[simp] theorem recordFault_txv (r : HostFault) (s : State) : (s.recordFault r).txv = s.txv := rfl
@[simp] theorem recordFault_busy (r : HostFault) (s : State) : (s.recordFault r).busy = s.busy := rfl
@[simp] theorem recordFault_pending (r : HostFault) (s : State) : (s.recordFault r).pending = s.pending := rfl
@[simp] theorem recordFault_initd (r : HostFault) (s : State) : (s.recordFault r).initd = s.initd := rfl
@[simp] theorem recordFault_srcHw (r : HostFault) (s : State) : (s.recordFault r).srcHw = s.srcHw := rfl
@[simp] theorem recordFault_doneIe (r : HostFault) (s : State) : (s.recordFault r).doneIe = s.doneIe := rfl
@[simp] theorem recordFault_errIe (r : HostFault) (s : State) : (s.recordFault r).errIe = s.errIe := rfl
@[simp] theorem recordFault_forceMt (r : HostFault) (s : State) : (s.recordFault r).forceMt = s.forceMt := rfl
@[simp] theorem recordFault_rxLen (r : HostFault) (s : State) : (s.recordFault r).rxLen = s.rxLen := rfl
@[simp] theorem recordFault_bannerLen (r : HostFault) (s : State) : (s.recordFault r).bannerLen = s.bannerLen := rfl
@[simp] theorem recordFault_ckResult (r : HostFault) (s : State) : (s.recordFault r).ckResult = s.ckResult := rfl
@[simp] theorem recordFault_mtSeed (r : HostFault) (s : State) : (s.recordFault r).mtSeed = s.mtSeed := rfl
@[simp] theorem recordFault_mtOut (r : HostFault) (s : State) : (s.recordFault r).mtOut = s.mtOut := rfl
@[simp] theorem recordFault_rndLen (r : HostFault) (s : State) : (s.recordFault r).rndLen = s.rndLen := rfl
@[simp] theorem recordFault_decResult (r : HostFault) (s : State) : (s.recordFault r).decResult = s.decResult := rfl
@[simp] theorem recordFault_decFlags (r : HostFault) (s : State) : (s.recordFault r).decFlags = s.decFlags := rfl
@[simp] theorem recordFault_msgidHi (r : HostFault) (s : State) : (s.recordFault r).msgidHi = s.msgidHi := rfl
@[simp] theorem recordFault_msgidLo (r : HostFault) (s : State) : (s.recordFault r).msgidLo = s.msgidLo := rfl
@[simp] theorem recordFault_prng (r : HostFault) (s : State) : (s.recordFault r).prng = s.prng := rfl
@[simp] theorem recordFault_mem (r : HostFault) (s : State) : (s.recordFault r).mem = s.mem := rfl
@[simp] theorem recordFault_fault (r : HostFault) (s : State) : (s.recordFault r).fault = s.fault ++ [r] := rfl
@[simp] theorem recordFault_host (r : HostFault) (s : State) : (s.recordFault r).host = s.host := rfl
@[simp] theorem recordFault_sched (r : HostFault) (s : State) : (s.recordFault r).sched = s.sched := rfl
@[simp] theorem recordFault_draws (r : HostFault) (s : State) : (s.recordFault r).draws = s.draws := rfl
@[simp] theorem recordFault_resets (r : HostFault) (s : State) : (s.recordFault r).resets = s.resets := rfl

/-! ### `countDraws` -/

@[simp] theorem countDraws_done (n : Nat) (s : State) : (s.countDraws n).done = s.done := rfl
@[simp] theorem countDraws_err (n : Nat) (s : State) : (s.countDraws n).err = s.err := rfl
@[simp] theorem countDraws_errcode (n : Nat) (s : State) : (s.countDraws n).errcode = s.errcode := rfl
@[simp] theorem countDraws_txv (n : Nat) (s : State) : (s.countDraws n).txv = s.txv := rfl
@[simp] theorem countDraws_busy (n : Nat) (s : State) : (s.countDraws n).busy = s.busy := rfl
@[simp] theorem countDraws_pending (n : Nat) (s : State) : (s.countDraws n).pending = s.pending := rfl
@[simp] theorem countDraws_initd (n : Nat) (s : State) : (s.countDraws n).initd = s.initd := rfl
@[simp] theorem countDraws_srcHw (n : Nat) (s : State) : (s.countDraws n).srcHw = s.srcHw := rfl
@[simp] theorem countDraws_doneIe (n : Nat) (s : State) : (s.countDraws n).doneIe = s.doneIe := rfl
@[simp] theorem countDraws_errIe (n : Nat) (s : State) : (s.countDraws n).errIe = s.errIe := rfl
@[simp] theorem countDraws_forceMt (n : Nat) (s : State) : (s.countDraws n).forceMt = s.forceMt := rfl
@[simp] theorem countDraws_rxLen (n : Nat) (s : State) : (s.countDraws n).rxLen = s.rxLen := rfl
@[simp] theorem countDraws_bannerLen (n : Nat) (s : State) : (s.countDraws n).bannerLen = s.bannerLen := rfl
@[simp] theorem countDraws_ckResult (n : Nat) (s : State) : (s.countDraws n).ckResult = s.ckResult := rfl
@[simp] theorem countDraws_mtSeed (n : Nat) (s : State) : (s.countDraws n).mtSeed = s.mtSeed := rfl
@[simp] theorem countDraws_mtOut (n : Nat) (s : State) : (s.countDraws n).mtOut = s.mtOut := rfl
@[simp] theorem countDraws_rndLen (n : Nat) (s : State) : (s.countDraws n).rndLen = s.rndLen := rfl
@[simp] theorem countDraws_decResult (n : Nat) (s : State) : (s.countDraws n).decResult = s.decResult := rfl
@[simp] theorem countDraws_decFlags (n : Nat) (s : State) : (s.countDraws n).decFlags = s.decFlags := rfl
@[simp] theorem countDraws_msgidHi (n : Nat) (s : State) : (s.countDraws n).msgidHi = s.msgidHi := rfl
@[simp] theorem countDraws_msgidLo (n : Nat) (s : State) : (s.countDraws n).msgidLo = s.msgidLo := rfl
@[simp] theorem countDraws_prng (n : Nat) (s : State) : (s.countDraws n).prng = s.prng := rfl
@[simp] theorem countDraws_mem (n : Nat) (s : State) : (s.countDraws n).mem = s.mem := rfl
@[simp] theorem countDraws_fault (n : Nat) (s : State) : (s.countDraws n).fault = s.fault := rfl
@[simp] theorem countDraws_host (n : Nat) (s : State) : (s.countDraws n).host = s.host := rfl
@[simp] theorem countDraws_sched (n : Nat) (s : State) : (s.countDraws n).sched = s.sched := rfl
@[simp] theorem countDraws_draws (n : Nat) (s : State) : (s.countDraws n).draws = s.draws + n := rfl
@[simp] theorem countDraws_resets (n : Nat) (s : State) : (s.countDraws n).resets = s.resets := rfl

/-! ### `writeBytes` -/

@[simp] theorem writeBytes_done (s : State) (a : Nat) (bs : List Byte) : (s.writeBytes a bs).done = s.done := rfl
@[simp] theorem writeBytes_err (s : State) (a : Nat) (bs : List Byte) : (s.writeBytes a bs).err = s.err := rfl
@[simp] theorem writeBytes_errcode (s : State) (a : Nat) (bs : List Byte) : (s.writeBytes a bs).errcode = s.errcode := rfl
@[simp] theorem writeBytes_txv (s : State) (a : Nat) (bs : List Byte) : (s.writeBytes a bs).txv = s.txv := rfl
@[simp] theorem writeBytes_busy (s : State) (a : Nat) (bs : List Byte) : (s.writeBytes a bs).busy = s.busy := rfl
@[simp] theorem writeBytes_pending (s : State) (a : Nat) (bs : List Byte) : (s.writeBytes a bs).pending = s.pending := rfl
@[simp] theorem writeBytes_initd (s : State) (a : Nat) (bs : List Byte) : (s.writeBytes a bs).initd = s.initd := rfl
@[simp] theorem writeBytes_srcHw (s : State) (a : Nat) (bs : List Byte) : (s.writeBytes a bs).srcHw = s.srcHw := rfl
@[simp] theorem writeBytes_doneIe (s : State) (a : Nat) (bs : List Byte) : (s.writeBytes a bs).doneIe = s.doneIe := rfl
@[simp] theorem writeBytes_errIe (s : State) (a : Nat) (bs : List Byte) : (s.writeBytes a bs).errIe = s.errIe := rfl
@[simp] theorem writeBytes_forceMt (s : State) (a : Nat) (bs : List Byte) : (s.writeBytes a bs).forceMt = s.forceMt := rfl
@[simp] theorem writeBytes_rxLen (s : State) (a : Nat) (bs : List Byte) : (s.writeBytes a bs).rxLen = s.rxLen := rfl
@[simp] theorem writeBytes_bannerLen (s : State) (a : Nat) (bs : List Byte) : (s.writeBytes a bs).bannerLen = s.bannerLen := rfl
@[simp] theorem writeBytes_ckResult (s : State) (a : Nat) (bs : List Byte) : (s.writeBytes a bs).ckResult = s.ckResult := rfl
@[simp] theorem writeBytes_mtSeed (s : State) (a : Nat) (bs : List Byte) : (s.writeBytes a bs).mtSeed = s.mtSeed := rfl
@[simp] theorem writeBytes_mtOut (s : State) (a : Nat) (bs : List Byte) : (s.writeBytes a bs).mtOut = s.mtOut := rfl
@[simp] theorem writeBytes_rndLen (s : State) (a : Nat) (bs : List Byte) : (s.writeBytes a bs).rndLen = s.rndLen := rfl
@[simp] theorem writeBytes_decResult (s : State) (a : Nat) (bs : List Byte) : (s.writeBytes a bs).decResult = s.decResult := rfl
@[simp] theorem writeBytes_decFlags (s : State) (a : Nat) (bs : List Byte) : (s.writeBytes a bs).decFlags = s.decFlags := rfl
@[simp] theorem writeBytes_msgidHi (s : State) (a : Nat) (bs : List Byte) : (s.writeBytes a bs).msgidHi = s.msgidHi := rfl
@[simp] theorem writeBytes_msgidLo (s : State) (a : Nat) (bs : List Byte) : (s.writeBytes a bs).msgidLo = s.msgidLo := rfl
@[simp] theorem writeBytes_prng (s : State) (a : Nat) (bs : List Byte) : (s.writeBytes a bs).prng = s.prng := rfl
@[simp] theorem writeBytes_mem (s : State) (a : Nat) (bs : List Byte) : (s.writeBytes a bs).mem = Memory.writeBytes s.mem a bs := rfl
@[simp] theorem writeBytes_fault (s : State) (a : Nat) (bs : List Byte) : (s.writeBytes a bs).fault = s.fault := rfl
@[simp] theorem writeBytes_host (s : State) (a : Nat) (bs : List Byte) : (s.writeBytes a bs).host = s.host := rfl
@[simp] theorem writeBytes_sched (s : State) (a : Nat) (bs : List Byte) : (s.writeBytes a bs).sched = s.sched := rfl
@[simp] theorem writeBytes_draws (s : State) (a : Nat) (bs : List Byte) : (s.writeBytes a bs).draws = s.draws := rfl
@[simp] theorem writeBytes_resets (s : State) (a : Nat) (bs : List Byte) : (s.writeBytes a bs).resets = s.resets := rfl

/-! ### `writeWord` -/

@[simp] theorem writeWord_done (s : State) (a : Nat) (v : Word) : (s.writeWord a v).done = s.done := rfl
@[simp] theorem writeWord_err (s : State) (a : Nat) (v : Word) : (s.writeWord a v).err = s.err := rfl
@[simp] theorem writeWord_errcode (s : State) (a : Nat) (v : Word) : (s.writeWord a v).errcode = s.errcode := rfl
@[simp] theorem writeWord_txv (s : State) (a : Nat) (v : Word) : (s.writeWord a v).txv = s.txv := rfl
@[simp] theorem writeWord_busy (s : State) (a : Nat) (v : Word) : (s.writeWord a v).busy = s.busy := rfl
@[simp] theorem writeWord_pending (s : State) (a : Nat) (v : Word) : (s.writeWord a v).pending = s.pending := rfl
@[simp] theorem writeWord_initd (s : State) (a : Nat) (v : Word) : (s.writeWord a v).initd = s.initd := rfl
@[simp] theorem writeWord_srcHw (s : State) (a : Nat) (v : Word) : (s.writeWord a v).srcHw = s.srcHw := rfl
@[simp] theorem writeWord_doneIe (s : State) (a : Nat) (v : Word) : (s.writeWord a v).doneIe = s.doneIe := rfl
@[simp] theorem writeWord_errIe (s : State) (a : Nat) (v : Word) : (s.writeWord a v).errIe = s.errIe := rfl
@[simp] theorem writeWord_forceMt (s : State) (a : Nat) (v : Word) : (s.writeWord a v).forceMt = s.forceMt := rfl
@[simp] theorem writeWord_rxLen (s : State) (a : Nat) (v : Word) : (s.writeWord a v).rxLen = s.rxLen := rfl
@[simp] theorem writeWord_bannerLen (s : State) (a : Nat) (v : Word) : (s.writeWord a v).bannerLen = s.bannerLen := rfl
@[simp] theorem writeWord_ckResult (s : State) (a : Nat) (v : Word) : (s.writeWord a v).ckResult = s.ckResult := rfl
@[simp] theorem writeWord_mtSeed (s : State) (a : Nat) (v : Word) : (s.writeWord a v).mtSeed = s.mtSeed := rfl
@[simp] theorem writeWord_mtOut (s : State) (a : Nat) (v : Word) : (s.writeWord a v).mtOut = s.mtOut := rfl
@[simp] theorem writeWord_rndLen (s : State) (a : Nat) (v : Word) : (s.writeWord a v).rndLen = s.rndLen := rfl
@[simp] theorem writeWord_decResult (s : State) (a : Nat) (v : Word) : (s.writeWord a v).decResult = s.decResult := rfl
@[simp] theorem writeWord_decFlags (s : State) (a : Nat) (v : Word) : (s.writeWord a v).decFlags = s.decFlags := rfl
@[simp] theorem writeWord_msgidHi (s : State) (a : Nat) (v : Word) : (s.writeWord a v).msgidHi = s.msgidHi := rfl
@[simp] theorem writeWord_msgidLo (s : State) (a : Nat) (v : Word) : (s.writeWord a v).msgidLo = s.msgidLo := rfl
@[simp] theorem writeWord_prng (s : State) (a : Nat) (v : Word) : (s.writeWord a v).prng = s.prng := rfl
@[simp] theorem writeWord_mem (s : State) (a : Nat) (v : Word) : (s.writeWord a v).mem = Memory.writeBytes s.mem a (bytesBE32 v) := rfl
@[simp] theorem writeWord_fault (s : State) (a : Nat) (v : Word) : (s.writeWord a v).fault = s.fault := rfl
@[simp] theorem writeWord_host (s : State) (a : Nat) (v : Word) : (s.writeWord a v).host = s.host := rfl
@[simp] theorem writeWord_sched (s : State) (a : Nat) (v : Word) : (s.writeWord a v).sched = s.sched := rfl
@[simp] theorem writeWord_draws (s : State) (a : Nat) (v : Word) : (s.writeWord a v).draws = s.draws := rfl
@[simp] theorem writeWord_resets (s : State) (a : Nat) (v : Word) : (s.writeWord a v).resets = s.resets := rfl

/-! ### `hostGoto` -/

@[simp] theorem hostGoto_done (p : Nat) (s : State) : (s.hostGoto p).done = s.done := rfl
@[simp] theorem hostGoto_err (p : Nat) (s : State) : (s.hostGoto p).err = s.err := rfl
@[simp] theorem hostGoto_errcode (p : Nat) (s : State) : (s.hostGoto p).errcode = s.errcode := rfl
@[simp] theorem hostGoto_txv (p : Nat) (s : State) : (s.hostGoto p).txv = s.txv := rfl
@[simp] theorem hostGoto_busy (p : Nat) (s : State) : (s.hostGoto p).busy = s.busy := rfl
@[simp] theorem hostGoto_pending (p : Nat) (s : State) : (s.hostGoto p).pending = s.pending := rfl
@[simp] theorem hostGoto_initd (p : Nat) (s : State) : (s.hostGoto p).initd = s.initd := rfl
@[simp] theorem hostGoto_srcHw (p : Nat) (s : State) : (s.hostGoto p).srcHw = s.srcHw := rfl
@[simp] theorem hostGoto_doneIe (p : Nat) (s : State) : (s.hostGoto p).doneIe = s.doneIe := rfl
@[simp] theorem hostGoto_errIe (p : Nat) (s : State) : (s.hostGoto p).errIe = s.errIe := rfl
@[simp] theorem hostGoto_forceMt (p : Nat) (s : State) : (s.hostGoto p).forceMt = s.forceMt := rfl
@[simp] theorem hostGoto_rxLen (p : Nat) (s : State) : (s.hostGoto p).rxLen = s.rxLen := rfl
@[simp] theorem hostGoto_bannerLen (p : Nat) (s : State) : (s.hostGoto p).bannerLen = s.bannerLen := rfl
@[simp] theorem hostGoto_ckResult (p : Nat) (s : State) : (s.hostGoto p).ckResult = s.ckResult := rfl
@[simp] theorem hostGoto_mtSeed (p : Nat) (s : State) : (s.hostGoto p).mtSeed = s.mtSeed := rfl
@[simp] theorem hostGoto_mtOut (p : Nat) (s : State) : (s.hostGoto p).mtOut = s.mtOut := rfl
@[simp] theorem hostGoto_rndLen (p : Nat) (s : State) : (s.hostGoto p).rndLen = s.rndLen := rfl
@[simp] theorem hostGoto_decResult (p : Nat) (s : State) : (s.hostGoto p).decResult = s.decResult := rfl
@[simp] theorem hostGoto_decFlags (p : Nat) (s : State) : (s.hostGoto p).decFlags = s.decFlags := rfl
@[simp] theorem hostGoto_msgidHi (p : Nat) (s : State) : (s.hostGoto p).msgidHi = s.msgidHi := rfl
@[simp] theorem hostGoto_msgidLo (p : Nat) (s : State) : (s.hostGoto p).msgidLo = s.msgidLo := rfl
@[simp] theorem hostGoto_prng (p : Nat) (s : State) : (s.hostGoto p).prng = s.prng := rfl
@[simp] theorem hostGoto_mem (p : Nat) (s : State) : (s.hostGoto p).mem = s.mem := rfl
@[simp] theorem hostGoto_fault (p : Nat) (s : State) : (s.hostGoto p).fault = s.fault := rfl
@[simp] theorem hostGoto_host (p : Nat) (s : State) : (s.hostGoto p).host = { s.host with pos := p } := rfl
@[simp] theorem hostGoto_sched (p : Nat) (s : State) : (s.hostGoto p).sched = s.sched := rfl
@[simp] theorem hostGoto_draws (p : Nat) (s : State) : (s.hostGoto p).draws = s.draws := rfl
@[simp] theorem hostGoto_resets (p : Nat) (s : State) : (s.hostGoto p).resets = s.resets := rfl

/-! ### `hostTake` -/

@[simp] theorem hostTake_done (v : Option Word) (s : State) : (s.hostTake v).done = s.done := rfl
@[simp] theorem hostTake_err (v : Option Word) (s : State) : (s.hostTake v).err = s.err := rfl
@[simp] theorem hostTake_errcode (v : Option Word) (s : State) : (s.hostTake v).errcode = s.errcode := rfl
@[simp] theorem hostTake_txv (v : Option Word) (s : State) : (s.hostTake v).txv = s.txv := rfl
@[simp] theorem hostTake_busy (v : Option Word) (s : State) : (s.hostTake v).busy = s.busy := rfl
@[simp] theorem hostTake_pending (v : Option Word) (s : State) : (s.hostTake v).pending = s.pending := rfl
@[simp] theorem hostTake_initd (v : Option Word) (s : State) : (s.hostTake v).initd = s.initd := rfl
@[simp] theorem hostTake_srcHw (v : Option Word) (s : State) : (s.hostTake v).srcHw = s.srcHw := rfl
@[simp] theorem hostTake_doneIe (v : Option Word) (s : State) : (s.hostTake v).doneIe = s.doneIe := rfl
@[simp] theorem hostTake_errIe (v : Option Word) (s : State) : (s.hostTake v).errIe = s.errIe := rfl
@[simp] theorem hostTake_forceMt (v : Option Word) (s : State) : (s.hostTake v).forceMt = s.forceMt := rfl
@[simp] theorem hostTake_rxLen (v : Option Word) (s : State) : (s.hostTake v).rxLen = s.rxLen := rfl
@[simp] theorem hostTake_bannerLen (v : Option Word) (s : State) : (s.hostTake v).bannerLen = s.bannerLen := rfl
@[simp] theorem hostTake_ckResult (v : Option Word) (s : State) : (s.hostTake v).ckResult = s.ckResult := rfl
@[simp] theorem hostTake_mtSeed (v : Option Word) (s : State) : (s.hostTake v).mtSeed = s.mtSeed := rfl
@[simp] theorem hostTake_mtOut (v : Option Word) (s : State) : (s.hostTake v).mtOut = s.mtOut := rfl
@[simp] theorem hostTake_rndLen (v : Option Word) (s : State) : (s.hostTake v).rndLen = s.rndLen := rfl
@[simp] theorem hostTake_decResult (v : Option Word) (s : State) : (s.hostTake v).decResult = s.decResult := rfl
@[simp] theorem hostTake_decFlags (v : Option Word) (s : State) : (s.hostTake v).decFlags = s.decFlags := rfl
@[simp] theorem hostTake_msgidHi (v : Option Word) (s : State) : (s.hostTake v).msgidHi = s.msgidHi := rfl
@[simp] theorem hostTake_msgidLo (v : Option Word) (s : State) : (s.hostTake v).msgidLo = s.msgidLo := rfl
@[simp] theorem hostTake_prng (v : Option Word) (s : State) : (s.hostTake v).prng = s.prng := rfl
@[simp] theorem hostTake_mem (v : Option Word) (s : State) : (s.hostTake v).mem = s.mem := rfl
@[simp] theorem hostTake_fault (v : Option Word) (s : State) : (s.hostTake v).fault = s.fault := rfl
@[simp] theorem hostTake_host (v : Option Word) (s : State) : (s.hostTake v).host = { s.host with acc := v.getD s.host.acc } := rfl
@[simp] theorem hostTake_sched (v : Option Word) (s : State) : (s.hostTake v).sched = s.sched := rfl
@[simp] theorem hostTake_draws (v : Option Word) (s : State) : (s.hostTake v).draws = s.draws := rfl
@[simp] theorem hostTake_resets (v : Option Word) (s : State) : (s.hostTake v).resets = s.resets := rfl

/-! ### `popMove` -/

@[simp] theorem popMove_done (s : State) : (popMove s).done = s.done := rfl
@[simp] theorem popMove_err (s : State) : (popMove s).err = s.err := rfl
@[simp] theorem popMove_errcode (s : State) : (popMove s).errcode = s.errcode := rfl
@[simp] theorem popMove_txv (s : State) : (popMove s).txv = s.txv := rfl
@[simp] theorem popMove_busy (s : State) : (popMove s).busy = s.busy := rfl
@[simp] theorem popMove_pending (s : State) : (popMove s).pending = s.pending := rfl
@[simp] theorem popMove_initd (s : State) : (popMove s).initd = s.initd := rfl
@[simp] theorem popMove_srcHw (s : State) : (popMove s).srcHw = s.srcHw := rfl
@[simp] theorem popMove_doneIe (s : State) : (popMove s).doneIe = s.doneIe := rfl
@[simp] theorem popMove_errIe (s : State) : (popMove s).errIe = s.errIe := rfl
@[simp] theorem popMove_forceMt (s : State) : (popMove s).forceMt = s.forceMt := rfl
@[simp] theorem popMove_rxLen (s : State) : (popMove s).rxLen = s.rxLen := rfl
@[simp] theorem popMove_bannerLen (s : State) : (popMove s).bannerLen = s.bannerLen := rfl
@[simp] theorem popMove_ckResult (s : State) : (popMove s).ckResult = s.ckResult := rfl
@[simp] theorem popMove_mtSeed (s : State) : (popMove s).mtSeed = s.mtSeed := rfl
@[simp] theorem popMove_mtOut (s : State) : (popMove s).mtOut = s.mtOut := rfl
@[simp] theorem popMove_rndLen (s : State) : (popMove s).rndLen = s.rndLen := rfl
@[simp] theorem popMove_decResult (s : State) : (popMove s).decResult = s.decResult := rfl
@[simp] theorem popMove_decFlags (s : State) : (popMove s).decFlags = s.decFlags := rfl
@[simp] theorem popMove_msgidHi (s : State) : (popMove s).msgidHi = s.msgidHi := rfl
@[simp] theorem popMove_msgidLo (s : State) : (popMove s).msgidLo = s.msgidLo := rfl
@[simp] theorem popMove_prng (s : State) : (popMove s).prng = s.prng := rfl
@[simp] theorem popMove_mem (s : State) : (popMove s).mem = s.mem := rfl
@[simp] theorem popMove_fault (s : State) : (popMove s).fault = s.fault := rfl
@[simp] theorem popMove_host (s : State) : (popMove s).host = s.host := rfl
@[simp] theorem popMove_sched (s : State) : (popMove s).sched = s.sched.tail := rfl
@[simp] theorem popMove_draws (s : State) : (popMove s).draws = s.draws := rfl
@[simp] theorem popMove_resets (s : State) : (popMove s).resets = s.resets := rfl

/-! ### `latchForEngine` -/

@[simp] theorem latchForEngine_done (w : Word) (s : State) : (latchForEngine w s).done = s.done := rfl
@[simp] theorem latchForEngine_err (w : Word) (s : State) : (latchForEngine w s).err = s.err := rfl
@[simp] theorem latchForEngine_errcode (w : Word) (s : State) : (latchForEngine w s).errcode = s.errcode := rfl
@[simp] theorem latchForEngine_txv (w : Word) (s : State) : (latchForEngine w s).txv = s.txv := rfl
@[simp] theorem latchForEngine_busy (w : Word) (s : State) : (latchForEngine w s).busy = true := rfl
@[simp] theorem latchForEngine_pending (w : Word) (s : State) : (latchForEngine w s).pending = w := rfl
@[simp] theorem latchForEngine_initd (w : Word) (s : State) : (latchForEngine w s).initd = s.initd := rfl
@[simp] theorem latchForEngine_srcHw (w : Word) (s : State) : (latchForEngine w s).srcHw = s.srcHw := rfl
@[simp] theorem latchForEngine_doneIe (w : Word) (s : State) : (latchForEngine w s).doneIe = s.doneIe := rfl
@[simp] theorem latchForEngine_errIe (w : Word) (s : State) : (latchForEngine w s).errIe = s.errIe := rfl
@[simp] theorem latchForEngine_forceMt (w : Word) (s : State) : (latchForEngine w s).forceMt = s.forceMt := rfl
@[simp] theorem latchForEngine_rxLen (w : Word) (s : State) : (latchForEngine w s).rxLen = s.rxLen := rfl
@[simp] theorem latchForEngine_bannerLen (w : Word) (s : State) : (latchForEngine w s).bannerLen = s.bannerLen := rfl
@[simp] theorem latchForEngine_ckResult (w : Word) (s : State) : (latchForEngine w s).ckResult = s.ckResult := rfl
@[simp] theorem latchForEngine_mtSeed (w : Word) (s : State) : (latchForEngine w s).mtSeed = s.mtSeed := rfl
@[simp] theorem latchForEngine_mtOut (w : Word) (s : State) : (latchForEngine w s).mtOut = s.mtOut := rfl
@[simp] theorem latchForEngine_rndLen (w : Word) (s : State) : (latchForEngine w s).rndLen = s.rndLen := rfl
@[simp] theorem latchForEngine_decResult (w : Word) (s : State) : (latchForEngine w s).decResult = s.decResult := rfl
@[simp] theorem latchForEngine_decFlags (w : Word) (s : State) : (latchForEngine w s).decFlags = s.decFlags := rfl
@[simp] theorem latchForEngine_msgidHi (w : Word) (s : State) : (latchForEngine w s).msgidHi = s.msgidHi := rfl
@[simp] theorem latchForEngine_msgidLo (w : Word) (s : State) : (latchForEngine w s).msgidLo = s.msgidLo := rfl
@[simp] theorem latchForEngine_prng (w : Word) (s : State) : (latchForEngine w s).prng = s.prng := rfl
@[simp] theorem latchForEngine_mem (w : Word) (s : State) : (latchForEngine w s).mem = s.mem := rfl
@[simp] theorem latchForEngine_fault (w : Word) (s : State) : (latchForEngine w s).fault = s.fault := rfl
@[simp] theorem latchForEngine_host (w : Word) (s : State) : (latchForEngine w s).host = s.host := rfl
@[simp] theorem latchForEngine_sched (w : Word) (s : State) : (latchForEngine w s).sched = .engine :: s.sched := rfl
@[simp] theorem latchForEngine_draws (w : Word) (s : State) : (latchForEngine w s).draws = s.draws := rfl
@[simp] theorem latchForEngine_resets (w : Word) (s : State) : (latchForEngine w s).resets = s.resets := rfl

end Sys2Proof.Machine
end

