-- ==== Sys2Proof/Laws/Memory.lean ====
section
/-!
SUPPORT. The laws of the byte memory: a read after a write, every other byte kept, and the canonical form kept by every
memory operation.
-/
namespace Sys2Proof.Machine

/-! ### One byte -/

theorem find_writeByte_same (m : Memory) (a : Nat) (b : Byte) :
    Memory.find (Memory.writeByte m a b) a = some b := by
  induction m with
  | nil => simp [Memory.writeByte, Memory.find]
  | cons c t ih =>
    obtain ⟨a', b'⟩ := c
    unfold Memory.writeByte
    split
    · simp [Memory.find]
    · split
      · simp [Memory.find]
      · simp [Memory.find, *]

theorem find_writeByte_other (m : Memory) {a x : Nat} (b : Byte) (h : x ≠ a) :
    Memory.find (Memory.writeByte m a b) x = Memory.find m x := by
  induction m with
  | nil => simp [Memory.writeByte, Memory.find, Ne.symm h]
  | cons c t ih =>
    obtain ⟨a', b'⟩ := c
    unfold Memory.writeByte
    split
    · simp [Memory.find, Ne.symm h]
    · split
      · next h' => subst h'; simp [Memory.find, Ne.symm h]
      · simp [Memory.find, ih]

/-! ### A byte sequence -/

theorem find_writeBytes_outside (bs : List Byte) (m : Memory) {a x : Nat} (h : x < a ∨ a + bs.length ≤ x) :
    Memory.find (Memory.writeBytes m a bs) x = Memory.find m x := by
  induction bs generalizing m a with
  | nil => rfl
  | cons b bs ih =>
    simp only [List.length_cons] at h
    rw [Memory.writeBytes, ih _ (by omega), find_writeByte_other _ _ (by omega)]

theorem find_writeBytes_inside (bs : List Byte) (m : Memory) {a i : Nat} (h : i < bs.length) :
    Memory.find (Memory.writeBytes m a bs) (a + i) = some bs[i] := by
  induction bs generalizing m a i with
  | nil => simp at h
  | cons b bs ih =>
    cases i with
    | zero =>
      rw [Memory.writeBytes, find_writeBytes_outside bs _ (by omega)]
      simpa using find_writeByte_same m a b
    | succ i =>
      have := ih (Memory.writeByte m a b) (a := a + 1) (i := i) (by simpa using h)
      simpa [Memory.writeBytes, Nat.add_assoc, Nat.add_comm 1 i] using this

/-! ### The state's bytes -/

theorem readByte_congr {s t : State} {a : Nat} (hm : Memory.find t.mem a = Memory.find s.mem a)
    (hr : t.resets = s.resets) : t.readByte a = s.readByte a := by
  simp [State.readByte, State.unwrittenByte, hm, hr]

theorem readByte_writeBytes_outside (s : State) {a x : Nat} {bs : List Byte} (h : x < a ∨ a + bs.length ≤ x) :
    (s.writeBytes a bs).readByte x = s.readByte x :=
  readByte_congr (find_writeBytes_outside bs s.mem h) rfl

theorem readByte_writeBytes_inside (s : State) {a i : Nat} {bs : List Byte} (h : i < bs.length) :
    (s.writeBytes a bs).readByte (a + i) = bs[i] := by
  simp [State.readByte, find_writeBytes_inside bs s.mem h]

@[simp] theorem length_readBytes (s : State) (a n : Nat) : (s.readBytes a n).length = n := by
  simp [State.readBytes]

theorem getElem_readBytes (s : State) {a n i : Nat} (h : i < (s.readBytes a n).length) :
    (s.readBytes a n)[i] = s.readByte (a + i) := by
  simp [State.readBytes]

theorem readBytes_congr {s t : State} {a n : Nat} (h : ∀ i, i < n → t.readByte (a + i) = s.readByte (a + i)) :
    t.readBytes a n = s.readBytes a n := by
  apply List.ext_getElem <;> simp +contextual [getElem_readBytes, h]

/-- A read depends on the memory and the reset number only. -/
theorem readByte_of_mem {s t : State} (hm : t.mem = s.mem) (hr : t.resets = s.resets) (a : Nat) :
    t.readByte a = s.readByte a := readByte_congr (by rw [hm]) hr

theorem readBytes_of_mem {s t : State} (hm : t.mem = s.mem) (hr : t.resets = s.resets) (a n : Nat) :
    t.readBytes a n = s.readBytes a n := readBytes_congr fun _ _ => readByte_of_mem hm hr _

/-- A byte sequence just written reads back. -/
theorem readBytes_writeBytes (s : State) (a : Nat) (bs : List Byte) :
    (s.writeBytes a bs).readBytes a bs.length = bs := by
  apply List.ext_getElem
  · simp
  · intro i h1 h2
    rw [getElem_readBytes, readByte_writeBytes_inside s h2]

theorem readBytes_writeBytes_outside (s : State) {a x n : Nat} {bs : List Byte}
    (h : x + n ≤ a ∨ a + bs.length ≤ x) : (s.writeBytes a bs).readBytes x n = s.readBytes x n :=
  readBytes_congr fun _ _ => readByte_writeBytes_outside s (by omega)

/-! ### The canonical form -/

theorem mem_writeByte {m : Memory} {a : Nat} {b : Byte} {c : Host.Cell} (h : c ∈ Memory.writeByte m a b) :
    c = (a, b) ∨ c ∈ m := by
  induction m with
  | nil => simpa [Memory.writeByte] using h
  | cons d t ih =>
    obtain ⟨a', b'⟩ := d
    unfold Memory.writeByte at h
    split at h
    · simpa using h
    · split at h
      · rcases List.mem_cons.mp h with h | h
        · exact .inl h
        · exact .inr (List.mem_cons_of_mem _ h)
      · rcases List.mem_cons.mp h with h | h
        · exact .inr (h ▸ List.mem_cons_self)
        · exact (ih h).imp id (List.mem_cons_of_mem _)

theorem mem_writeBytes {bs : List Byte} {m : Memory} {a : Nat} {c : Host.Cell}
    (h : c ∈ Memory.writeBytes m a bs) : (a ≤ c.1 ∧ c.1 < a + bs.length) ∨ c ∈ m := by
  induction bs generalizing m a with
  | nil => exact .inr h
  | cons b bs ih =>
    rcases ih h with h | h
    · left; simp; omega
    · rcases mem_writeByte h with h | h
      · left; subst h; simp
      · exact .inr h

theorem wf_cons {c : Host.Cell} {t : Memory} :
    Memory.wf (c :: t) ↔ (∀ d ∈ t, c.1 < d.1) ∧ Memory.wf t := by
  simp [Memory.wf]

theorem wf_writeByte {m : Memory} (h : Memory.wf m) (a : Nat) (b : Byte) : Memory.wf (Memory.writeByte m a b) := by
  induction m with
  | nil => simp [Memory.writeByte, Memory.wf]
  | cons d t ih =>
    obtain ⟨a', b'⟩ := d
    obtain ⟨hlt, ht⟩ := wf_cons.mp h
    unfold Memory.writeByte
    split
    · next ha =>
      refine wf_cons.mpr ⟨fun c hc => ?_, h⟩
      rcases List.mem_cons.mp hc with rfl | hc
      · exact ha
      · exact ha.trans (hlt c hc)
    · split
      · next ha => subst ha; exact wf_cons.mpr ⟨hlt, ht⟩
      · refine wf_cons.mpr ⟨fun c hc => ?_, ih ht⟩
        rcases mem_writeByte hc with rfl | hc
        · simp; omega
        · exact hlt c hc

theorem wf_writeBytes (bs : List Byte) {m : Memory} (h : Memory.wf m) (a : Nat) :
    Memory.wf (Memory.writeBytes m a bs) := by
  induction bs generalizing m a with
  | nil => exact h
  | cons b bs ih => exact ih (wf_writeByte h a b) (a + 1)

theorem wf_reset : Memory.wf State.reset.mem := by decide

end Sys2Proof.Machine
end

