-- ==== Sys2Proof/Laws/Commands.lean ====
section
/-!
SUPPORT. What the shared operations of the commands can do, once: the checks and ends of a command, the identifier
generator, the decoder's register effects, the reply builder.
-/
namespace Sys2Proof.Machine

/-! ### A command -/

@[simp] theorem exceeds_iff {n cap : Nat} : exceeds n cap = true ↔ cap < n := by simp [exceeds]

@[simp] theorem exceeds_eq_false {n cap : Nat} : exceeds n cap = false ↔ n ≤ cap := by simp [exceeds]

@[simp] theorem firstFailure_nil : firstFailure [] = none := rfl

@[simp] theorem firstFailure_cons (p : Bool) (c : ErrCode) (rest : List (Bool × ErrCode)) :
    firstFailure ((p, c) :: rest) = if p then some c else firstFailure rest := rfl

/-- Every check passes. -/
theorem firstFailure_cons_eq_none {p : Bool} {c : ErrCode} {rest : List (Bool × ErrCode)} :
    firstFailure ((p, c) :: rest) = none ↔ p = false ∧ firstFailure rest = none := by
  cases p <;> simp

/-- A command whose checks pass ends by `finish`. -/
theorem runCommand_of_pass {checks : List (Bool × ErrCode)} (effect : State → State) (s : State)
    (h : firstFailure checks = none) : runCommand checks effect s = .next (effect s).finish := by
  simp [runCommand, h]

/-- A command whose first failing check raises `c` ends by `raiseError c`. -/
theorem runCommand_of_fail {checks : List (Bool × ErrCode)} {c : ErrCode} (effect : State → State) (s : State)
    (h : firstFailure checks = some c) : runCommand checks effect s = .next (s.raiseError c) := by
  simp [runCommand, h]

/-- Everything a command can do. -/
theorem runCommand_cases (checks : List (Bool × ErrCode)) (effect : State → State) (s : State) :
    (∃ c, firstFailure checks = some c ∧ runCommand checks effect s = .next (s.raiseError c)) ∨
      (firstFailure checks = none ∧ runCommand checks effect s = .next (effect s).finish) := by
  cases h : firstFailure checks with
  | some c => exact .inl ⟨c, rfl, runCommand_of_fail effect s h⟩
  | none => exact .inr ⟨rfl, runCommand_of_pass effect s h⟩

/-- The checks of a command, in the order of 60 R263. -/
def checksOf (i : Instr) (s : State) : List (Bool × ErrCode) :=
  match i with
  | .nop | .seed | .next => []
  | .init => [(s.initd, .alreadyInit), (exceeds s.bannerLen.toNat bannerCap, .config)]
  | .cksum sel _ n => [(exceeds n (selected sel).size, .lenRange)]
  | .rand n => [(!s.initd, .notInit), (exceeds n rndCap, .lenRange)]
  | .decode => [(rxLenTooLong s, .lenRange)]
  | .reply => [(!s.initd, .notInit)]
  | .process => [(!s.initd, .notInit), (rxLenTooLong s, .lenRange)]

/-- The effect of a command, before `finish`. -/
def effectOf (i : Instr) : State → State :=
  match i with
  | .nop => id
  | .init => initEffect
  | .cksum sel zf n => cksumEffect sel zf n
  | .seed => seedEffect
  | .next => nextEffect
  | .rand n => randEffect n
  | .decode => decodeEffect
  | .reply => replyEffect
  | .process => processEffect

/-- Every meaning is its checks and its effect. -/
theorem exec_eq (i : Instr) (s : State) : exec i s = runCommand (checksOf i s) (effectOf i) s := by
  cases i <;> rfl

/-- Everything a command can do: the error of its first failing check, or its effect and `finish`. -/
theorem exec_cases (i : Instr) (s : State) :
    (∃ c, firstFailure (checksOf i s) = some c ∧ exec i s = .next (s.raiseError c)) ∨
      (firstFailure (checksOf i s) = none ∧ exec i s = .next (effectOf i s).finish) := by
  rw [exec_eq]
  exact runCommand_cases _ _ s

/-! ### The identifier generator: only the PRNG state and the draw number change -/

theorem seedIfNeeded_frame (s : State) :
    ∃ p d, seedIfNeeded s = { s with prng := p, draws := d } ∧ p.seeded = true := by
  unfold seedIfNeeded
  split
  · next h => exact ⟨s.prng, s.draws, rfl, h⟩
  · exact ⟨_, _, rfl, rfl⟩

@[simp] theorem mtExtract_seeded (p : Prng) : (mtExtract p).2.seeded = p.seeded := by
  unfold mtExtract
  split <;> rfl

theorem mtNext_frame (s : State) :
    ∃ p d, (mtNext s).2 = { s with prng := p, draws := d } ∧ p.seeded = true := by
  obtain ⟨p, d, h, hp⟩ := seedIfNeeded_frame s
  exact ⟨(mtExtract p).2, d, by simp [mtNext, h], by simp [hp]⟩

/-- After an extraction the MT is seeded. -/
@[simp] theorem mtNext_seeded (s : State) : (mtNext s).2.prng.seeded = true := by
  obtain ⟨p, d, h, hp⟩ := mtNext_frame s
  rw [h]
  exact hp

theorem mtGroups_frame (g : Nat) (s : State) :
    ∃ p d, (mtGroups g s).2 = { s with prng := p, draws := d } ∧ (s.prng.seeded = true → p.seeded = true) := by
  induction g generalizing s with
  | zero => exact ⟨s.prng, s.draws, rfl, id⟩
  | succ g ih =>
    obtain ⟨p, d, h, hp⟩ := mtNext_frame s
    obtain ⟨p', d', h', hp'⟩ := ih (mtNext s).2
    rw [h] at h' hp'
    exact ⟨p', d', by simpa [mtGroups, h] using h', fun _ => hp' hp⟩

theorem mtBytes_frame (n : Nat) (s : State) :
    ∃ p d, (mtBytes n s).2 = { s with prng := p, draws := d } ∧ (s.prng.seeded = true → p.seeded = true) := by
  obtain ⟨p, d, h, hp⟩ := mtGroups_frame (n / 4) s
  by_cases hn : n % 4 = 0
  · exact ⟨p, d, by simp [mtBytes, hn, h], hp⟩
  · obtain ⟨p', d', h', hp'⟩ := mtNext_frame (mtGroups (n / 4) s).2
    rw [h] at h'
    exact ⟨p', d', by simpa [mtBytes, hn, h] using h', fun _ => hp'⟩

theorem randomBytes_frame (n : Nat) (s : State) :
    ∃ p d, (randomBytes n s).2 = { s with prng := p, draws := d } ∧ (s.prng.seeded = true → p.seeded = true) := by
  unfold randomBytes
  split
  · exact ⟨s.prng, s.draws + n, rfl, id⟩
  · exact mtBytes_frame n s

theorem length_mtGroups (g : Nat) (s : State) : (mtGroups g s).1.length = 4 * g := by
  induction g generalizing s with
  | zero => rfl
  | succ g ih => simp [mtGroups, ih, bytesBE32]; omega

@[simp] theorem length_randomBytes (n : Nat) (s : State) : (randomBytes n s).1.length = n := by
  unfold randomBytes
  split
  · simp [entropyBytes]
  · unfold mtBytes
    have := length_mtGroups (n / 4) s
    by_cases hn : n % 4 = 0
    · simp [hn, this]; omega
    · simp [hn, this, bytesBE32]; omega

/-! ### Effects: what each leaves alone -/

theorem applyDecoded_frame (d : Decoded) (s : State) :
    ∃ r f hi lo, applyDecoded d s = { s with decResult := r, decFlags := f, msgidHi := hi, msgidLo := lo } := by
  cases d
  · exact ⟨_, s.decFlags, s.msgidHi, s.msgidLo, rfl⟩
  · exact ⟨_, _, _, _, rfl⟩

/-! ### The reply -/

@[simp] theorem length_messageId (s : State) : (messageId s).length = 6 := rfl

@[simp] theorem length_bannerBytes (s : State) : (bannerBytes s).length = s.bannerLen.toNat := by
  simp [bannerBytes, State.prefixOf]

theorem length_unsignedReply {fresh id banner : List Byte} (hf : fresh.length = 6) (hi : id.length = 6) :
    (unsignedReply fresh id banner).length = 128 := by
  simp [unsignedReply, hf, hi, bannerCap, txSize]; omega

@[simp] theorem length_signReply (B : List Byte) : (signReply B).length = B.length := by simp [signReply]

/-- A build by its operands, which drawing the fresh id leaves alone (43_encoder R211). -/
theorem buildReply_eq (s : State) :
    buildReply s = (randomBytes 6 s).2.writeBytes Buffer.txbuf.base
      (signReply (unsignedReply (randomBytes 6 s).1 (messageId s) (bannerBytes s))) := by
  obtain ⟨p, d, h, hp⟩ := randomBytes_frame 6 s
  have hm : messageId (randomBytes 6 s).2 = messageId s := by rw [h]; rfl
  have hb : bannerBytes (randomBytes 6 s).2 = bannerBytes s := by rw [h]; rfl
  unfold buildReply
  simp only [hm, hb]

theorem length_builtReply (s : State) :
    (signReply (unsignedReply (randomBytes 6 s).1 (messageId s) (bannerBytes s))).length = 128 := by
  rw [length_signReply, length_unsignedReply] <;> simp

/-- Everything a build can do: TXBUF, the PRNG state and the draw number, nothing else. -/
theorem buildReply_frame (s : State) :
    ∃ bs, bs.length = 128 ∧ buildReply s = { s with
      mem := Memory.writeBytes s.mem 0x100 bs
      prng := (randomBytes 6 s).2.prng, draws := (randomBytes 6 s).2.draws } := by
  obtain ⟨p, d, h, -⟩ := randomBytes_frame 6 s
  refine ⟨_, length_builtReply s, ?_⟩
  rw [buildReply_eq, h]
  rfl

/-- TXBUF after a build. -/
theorem readBytes_buildReply (s : State) :
    (buildReply s).readBytes 0x100 128 =
      signReply (unsignedReply (randomBytes 6 s).1 (messageId s) (bannerBytes s)) := by
  have h := readBytes_writeBytes (randomBytes 6 s).2 0x100
    (signReply (unsignedReply (randomBytes 6 s).1 (messageId s) (bannerBytes s)))
  rw [length_builtReply] at h
  rw [buildReply_eq]
  exact h

/-! ### No effect writes ERR, ERRCODE or DONE -/

theorem effectOf_status (i : Instr) (s : State) :
    (effectOf i s).err = s.err ∧ (effectOf i s).errcode = s.errcode ∧ (effectOf i s).done = s.done := by
  have hb : ∀ s, (buildReply s).err = s.err ∧ (buildReply s).errcode = s.errcode ∧ (buildReply s).done = s.done := by
    intro s
    obtain ⟨bs, -, h⟩ := buildReply_frame s
    rw [h]
    exact ⟨rfl, rfl, rfl⟩
  have ha : ∀ d s, (applyDecoded d s).err = s.err ∧ (applyDecoded d s).errcode = s.errcode ∧
      (applyDecoded d s).done = s.done := by
    intro d s
    obtain ⟨_, _, _, _, h⟩ := applyDecoded_frame d s
    rw [h]
    exact ⟨rfl, rfl, rfl⟩
  cases i with
  | nop => exact ⟨rfl, rfl, rfl⟩
  | init => simp [effectOf, initEffect]
  | cksum => simp [effectOf, cksumEffect]
  | seed => simp [effectOf, seedEffect]
  | next => obtain ⟨p, d, h, -⟩ := mtNext_frame s; simp [effectOf, nextEffect, h]
  | rand n => obtain ⟨p, d, h, -⟩ := randomBytes_frame n s; simp [effectOf, randEffect, h]
  | decode => exact ha _ _
  | reply => exact hb s
  | process =>
    simp only [effectOf, processEffect]
    split
    · exact hb (applyDecoded (.accept _ _ true _) s)
    · exact ha _ s

/-- Every check raises a code that is not NONE. -/
theorem firstFailure_checksOf_ne_none {i : Instr} {s : State} {c : ErrCode}
    (h : firstFailure (checksOf i s) = some c) : c ≠ .none := by
  cases i <;> simp only [checksOf, firstFailure_cons, firstFailure_nil] at h <;> (try split_ifs at h) <;>
    simp at h <;> subst h <;> simp

end Sys2Proof.Machine
end

