-- ==== Sys2Proof/Laws/Encoding.lean ====
section
/-!
SUPPORT. The command word: every row's mask covers OP, so a matched row is known by OP; the fields of an encoded word.
-/
namespace Sys2Proof

/-- Every mask includes all of OP (30_encoding R92). -/
theorem opField_of_matches {r : EncodingRow} (hr : r ∈ encodingRows) {w : Word} (h : r.matches w = true) :
    opField w = opField r.pattern := by
  have hmask : ∀ r ∈ encodingRows, opField r.mask = 0xFF := by decide
  have hw : w &&& r.mask = r.pattern := by simpa [EncodingRow.matches] using h
  rw [← hw]
  have : opField (w &&& r.mask) = opField w &&& opField r.mask := by simp [opField, BitVec.extractLsb'_and]
  rw [this, hmask r hr]
  exact (BitVec.and_allOnes (x := opField w)).symm

/-- The rows differ in OP (30_encoding R92). -/
theorem opFields_distinct : encodingRows.Pairwise fun r r' => opField r.pattern ≠ opField r'.pattern := by decide

theorem matches_iff {r : EncodingRow} {w : Word} : r.matches w = true ↔ w &&& r.mask = r.pattern := by
  simp [EncodingRow.matches]

/-- A word with another OP does not match the row. -/
theorem matches_eq_false {r : EncodingRow} (hr : r ∈ encodingRows) {w : Word} (h : opField w ≠ opField r.pattern) :
    r.matches w = false := by
  by_contra hc
  exact h (opField_of_matches hr (by simpa using hc))

/-! ### Words that are no command (30_encoding R93) -/

theorem illegal_iff {w : Word} : Machine.illegal w ↔ ∃ e, decodeWord w = .error e := by
  unfold Machine.illegal
  cases decodeWord w <;> simp

theorem illegal_of_no_row {w : Word} (h : ∀ r ∈ encodingRows, r.matches w = false) : Machine.illegal w := by
  rw [illegal_iff]
  simp only [encodingRows, List.forall_mem_cons] at h
  obtain ⟨h0, h1, h2, h3, h4, h5, h6, h7, h8, -⟩ := h
  unfold decodeWord
  simp only [h0, h1, h2, h3, h4, h5, h6, h7, h8, Bool.false_eq_true, if_false]
  split <;> exact ⟨_, rfl⟩

/-- A word with a row's OP that does not match the row matches no row. -/
theorem illegal_of_own_row {r : EncodingRow} (hr : r ∈ encodingRows) {w : Word} (hw : opField w = opField r.pattern)
    (h : r.matches w = false) : Machine.illegal w := by
  have hne : ∀ r ∈ encodingRows, ∀ r' ∈ encodingRows, r' ≠ r → opField r.pattern ≠ opField r'.pattern := by decide
  refine illegal_of_no_row fun r' hr' => ?_
  by_cases hrr : r' = r
  · exact hrr ▸ h
  · exact matches_eq_false hr' (hw ▸ hne r hr r' hr' hrr)

/-! ### The rows with free fields (30_encoding R95) -/

theorem lenField_eq (w : Word) : lenField w = w.toNat / 65536 := by
  simp [lenField, BitVec.extractLsb'_toNat, Nat.shiftRight_eq_div_pow]
  omega

theorem decodeWord_of_cksumRow {w : Word} (h : cksumRow.matches w = true) :
    decodeWord w = .ok (.cksum (selField w) (zfField w) (lenField w)) := by
  have ho := opField_of_matches (r := cksumRow) (by decide) h
  have h0 := matches_eq_false (r := nopRow) (by decide) (w := w) (by rw [ho]; decide)
  have h1 := matches_eq_false (r := initRow) (by decide) (w := w) (by rw [ho]; decide)
  simp [decodeWord, h0, h1, h]

theorem decodeWord_of_randRow {w : Word} (h : randRow.matches w = true) :
    decodeWord w = .ok (.rand (lenField w)) := by
  have ho := opField_of_matches (r := randRow) (by decide) h
  have h0 := matches_eq_false (r := nopRow) (by decide) (w := w) (by rw [ho]; decide)
  have h1 := matches_eq_false (r := initRow) (by decide) (w := w) (by rw [ho]; decide)
  have h2 := matches_eq_false (r := cksumRow) (by decide) (w := w) (by rw [ho]; decide)
  have h3 := matches_eq_false (r := seedRow) (by decide) (w := w) (by rw [ho]; decide)
  have h4 := matches_eq_false (r := nextRow) (by decide) (w := w) (by rw [ho]; decide)
  simp [decodeWord, h0, h1, h2, h3, h4, h]

/-! ### The fields of an encoded word (30_encoding R90) -/

@[simp] theorem opField_cmd32 (op : Byte) (sel zf : Bool) (len : Nat) : opField (cmd32 op sel zf len) = op := by
  apply BitVec.eq_of_getLsbD_eq
  intro i hi
  have h9 : i < 9 := by omega
  have h16 : i < 16 := by omega
  simp [opField, cmd32, hi, h9, h16]
  omega

@[simp] theorem selBit_cmd32 (op : Byte) (sel zf : Bool) (len : Nat) : (cmd32 op sel zf len).getLsbD 8 = sel := by
  simp [cmd32]

@[simp] theorem zfField_cmd32 (op : Byte) (sel zf : Bool) (len : Nat) : zfField (cmd32 op sel zf len) = zf := by
  simp [zfField, cmd32]

theorem lenField_cmd32 (op : Byte) (sel zf : Bool) {len : Nat} (h : lenFits len = true) :
    lenField (cmd32 op sel zf len) = len := by
  have : (cmd32 op sel zf len).extractLsb' 16 16 = BitVec.ofNat 16 len := by
    apply BitVec.eq_of_getLsbD_eq
    intro i hi
    have h1 : ¬ 16 + i < 9 := by omega
    have h2 : ¬ 16 + i < 8 := by omega
    have h3 : ¬ 16 + i < 16 := by omega
    have h4 : 16 + i < 32 := by omega
    simp [cmd32, hi, h1, h2, h3, h4]
    have h5 : ¬ 16 + i - 9 = 0 := by omega
    have h6 : ¬ 16 + i - 8 = 0 := by omega
    simp [BitVec.getElem_eq_testBit_toNat, h5, h6, BitVec.getLsbD_of_ge op (16 + i) (by omega)]
    rw [show 4294967296 = 2 ^ 32 by rfl, show 65536 = 2 ^ 16 by rfl]
    simp only [Nat.testBit_mod_two_pow]; simp [hi]; omega
  have hlt : len < 65536 := by simpa [lenFits] using h
  simp [lenField, this, Nat.mod_eq_of_lt hlt]

/-- The word as a number (30_encoding R98). -/
theorem toNat_cmd32 (op : Byte) (sel zf : Bool) (len : Nat) :
    (cmd32 op sel zf len).toNat = len % 65536 * 65536 + zf.toNat * 512 + sel.toNat * 256 + op.toNat := by
  have hop := op.isLt
  have s1 : sel.toNat * 256 ||| op.toNat = sel.toNat * 256 + op.toNat := by
    simpa [Nat.shiftLeft_eq] using (Nat.shiftLeft_add_eq_or_of_lt (i := 8) hop sel.toNat).symm
  have hs := Bool.toNat_lt sel
  have s2 : zf.toNat * 512 ||| (sel.toNat * 256 + op.toNat) = zf.toNat * 512 + (sel.toNat * 256 + op.toNat) := by
    simpa [Nat.shiftLeft_eq] using
      (Nat.shiftLeft_add_eq_or_of_lt (i := 9) (b := sel.toNat * 256 + op.toNat) (by omega) zf.toNat).symm
  have hz := Bool.toNat_lt zf
  have s3 : len % 65536 * 65536 ||| (zf.toNat * 512 + (sel.toNat * 256 + op.toNat)) =
      len % 65536 * 65536 + (zf.toNat * 512 + (sel.toNat * 256 + op.toNat)) := by
    simpa [Nat.shiftLeft_eq] using
      (Nat.shiftLeft_add_eq_or_of_lt (i := 16) (b := zf.toNat * 512 + (sel.toNat * 256 + op.toNat)) (by omega)
        (len % 65536)).symm
  have e1 : (BitVec.ofNat 32 len <<< 16).toNat = len % 65536 * 65536 := by
    rw [BitVec.toNat_shiftLeft, BitVec.toNat_ofNat, Nat.shiftLeft_eq]
    omega
  have e2 : ((BitVec.ofBool zf).setWidth 32 <<< 9).toNat = zf.toNat * 512 := by cases zf <;> rfl
  have e3 : ((BitVec.ofBool sel).setWidth 32 <<< 8).toNat = sel.toNat * 256 := by cases sel <;> rfl
  have e4 : (op.setWidth 32).toNat = op.toNat := by
    rw [BitVec.toNat_setWidth]
    exact Nat.mod_eq_of_lt (by omega)
  rw [cmd32, BitVec.toNat_or, BitVec.toNat_or, BitVec.toNat_or, e1, e2, e3, e4, Nat.or_assoc, Nat.or_assoc, s1, s2, s3]
  omega

/-- LEN as the field it was read from. -/
theorem ofNat_lenField (w : Word) : BitVec.ofNat 32 (lenField w) = (w.extractLsb' 16 16).setWidth 32 := by
  rw [lenField, BitVec.ofNat_toNat]

end Sys2Proof
end

