-- ==== Sys2Proof/Laws/Generator.lean ====
section
/-!
SUPPORT. The identifier generator: one iteration of the twist at a time, the words a byte request extracts, and what a
request depends on (41_prng R153 to R161).
-/
namespace Sys2Proof.Machine

/-! ### The twist, iteration by iteration (41_prng R153) -/

/-- The words after the first `k` iterations. -/
def twistUpTo (old : Vector Word 624) (k : Nat) : Vector Word 624 := ((List.finRange 624).take k).foldl twistAt old

theorem mtTwist_eq (old : Vector Word 624) : mtTwist old = twistUpTo old 624 := by
  simp [mtTwist, twistUpTo, List.take_of_length_le]

theorem twistUpTo_succ (old : Vector Word 624) (k : Nat) (h : k < 624) :
    twistUpTo old (k + 1) = twistAt (twistUpTo old k) ⟨k, h⟩ := by
  unfold twistUpTo
  rw [List.take_succ_eq_append_getElem (by simpa using h), List.foldl_append]
  simp

/-- A word not reached yet is the old one. -/
theorem twistUpTo_not_reached (old : Vector Word 624) (k : Nat) (hk : k ≤ 624) (j : Nat) (hj : j < 624) (h : k ≤ j) :
    (twistUpTo old k)[j] = old[j] := by
  induction k with
  | zero => simp [twistUpTo]
  | succ k ih =>
    rw [twistUpTo_succ _ _ (by omega)]
    unfold twistAt
    rw [Vector.getElem_set_ne _ _ (by simp; omega)]
    exact ih (by omega) (by omega)

/-- A word passed keeps the value its own iteration gave it. -/
theorem twistUpTo_passed (old : Vector Word 624) (k : Nat) (hk : k ≤ 624) (j : Nat) (hj : j < k) :
    (twistUpTo old k)[j] = (twistUpTo old (j + 1))[j] := by
  induction k with
  | zero => omega
  | succ k ih =>
    by_cases h : j = k
    · subst h; rfl
    · rw [twistUpTo_succ _ _ (by omega)]
      unfold twistAt
      rw [Vector.getElem_set_ne _ _ (by simp; omega)]
      exact ih (by omega) (by omega)

/-- Word `j` comes from the three words as they stand when its iteration runs. -/
theorem getElem_mtTwist (old : Vector Word 624) (j : Nat) (hj : j < 624) :
    (mtTwist old)[j] =
      twistWord (twistUpTo old j)[j] (twistUpTo old j)[(j + 1) % 624] (twistUpTo old j)[(j + 397) % 624] := by
  rw [mtTwist_eq, twistUpTo_passed old 624 (by omega) j hj, twistUpTo_succ _ _ hj]
  unfold twistAt
  simp [Fin.getElem_fin]
  rfl

/-! ### Words and bytes -/

theorem afterWords_succ (k : Nat) (s : State) : afterWords (k + 1) s = (mtNext (afterWords k s)).2 := by
  induction k generalizing s with
  | zero => rfl
  | succ k ih => rw [afterWords, ih]; rfl

/-- `g` groups extract `g` words. -/
theorem mtGroups_state (g : Nat) (s : State) : (mtGroups g s).2 = afterWords g s := by
  induction g generalizing s with
  | zero => rfl
  | succ g ih => simp [mtGroups, afterWords, ih]

/-- Byte `j` of the groups is a byte of word `j / 4`. -/
theorem getElem?_mtGroups (g : Nat) (s : State) (j : Nat) (hj : j < 4 * g) :
    (mtGroups g s).1[j]? = (bytesBE32 (streamWord (j / 4) s))[j % 4]? := by
  induction g generalizing s j with
  | zero => omega
  | succ g ih =>
    simp only [mtGroups]
    by_cases h : j < 4
    · rw [List.getElem?_append_left (by simpa using h), Nat.div_eq_of_lt h, Nat.mod_eq_of_lt h]; rfl
    · rw [List.getElem?_append_right (by simp; omega)]
      simp only [length_bytesBE32]
      rw [ih _ _ (by omega), show (j - 4) / 4 = j / 4 - 1 by omega, show (j - 4) % 4 = j % 4 by omega]
      obtain ⟨q, hq⟩ : ∃ q, j / 4 = q + 1 := ⟨j / 4 - 1, by omega⟩
      rw [hq]; rfl

/-! ### A request depends on the PRNG state, the draw number and the source only -/

/-- The two states agree on what the generator reads. -/
def sameGenerator (s t : State) : Prop := s.prng = t.prng ∧ s.draws = t.draws

theorem mtNext_congr {s t : State} (h : sameGenerator s t) :
    (mtNext s).1 = (mtNext t).1 ∧ sameGenerator (mtNext s).2 (mtNext t).2 := by
  obtain ⟨hp, hd⟩ := h
  unfold mtNext seedIfNeeded sameGenerator
  rw [← hp, ← hd]
  split <;> simp_all

theorem mtGroups_congr (g : Nat) {s t : State} (h : sameGenerator s t) :
    (mtGroups g s).1 = (mtGroups g t).1 ∧ sameGenerator (mtGroups g s).2 (mtGroups g t).2 := by
  induction g generalizing s t with
  | zero => exact ⟨rfl, h⟩
  | succ g ih =>
    obtain ⟨h1, h2⟩ := mtNext_congr h
    obtain ⟨i1, i2⟩ := ih h2
    simp [mtGroups, h1, i1, i2]

theorem mtBytes_congr (n : Nat) {s t : State} (h : sameGenerator s t) :
    (mtBytes n s).1 = (mtBytes n t).1 ∧ sameGenerator (mtBytes n s).2 (mtBytes n t).2 := by
  obtain ⟨h1, h2⟩ := mtGroups_congr (n / 4) h
  obtain ⟨i1, i2⟩ := mtNext_congr h2
  unfold mtBytes
  by_cases hn : n % 4 = 0 <;> simp [hn, h1, h2, i1, i2]

theorem randomBytes_congr (n : Nat) {s t : State} (h : sameGenerator s t) (hs : s.srcHw = t.srcHw) :
    (randomBytes n s).1 = (randomBytes n t).1 ∧ sameGenerator (randomBytes n s).2 (randomBytes n t).2 := by
  unfold randomBytes
  rw [← hs]
  split
  · simp [entropyBytes, sameGenerator, h.1, h.2]
  · exact mtBytes_congr n h

end Sys2Proof.Machine
end

