-- ==== Sys2Proof/Laws/HostPort.lean ====
section
/-!
SUPPORT. What a host access and a step can do, once: the inversion lemmas the invariants cite.
-/
namespace Sys2Proof.Machine

/-- A read changes nothing but the draw number and the recorded host faults. -/
theorem hostRead_cases (a : Offset) (s : State) :
    (misaligned a = true ∧ hostRead a s = (none, s.recordFault .misaligned)) ∨
      (misaligned a = false ∧ s.busy = true ∧ settled (locate a) = false ∧
        hostRead a s = (some (Config.busyRead s.draws), s.countDraws 1)) ∨
      (misaligned a = false ∧ (s.busy = false ∨ settled (locate a) = true) ∧
        hostRead a s = (some (readRegion a s), s)) := by
  unfold hostRead
  cases misaligned a <;> cases s.busy <;> cases settled (locate a) <;> simp

/-- A write is a recorded host fault, or what the contract allows. -/
theorem hostWrite_cases (a : Offset) (v : Word) (s : State) :
    (misaligned a = true ∧ hostWrite a v s = s.recordFault .misaligned) ∨
      (misaligned a = false ∧ s.busy = true ∧ writableWhileBusy (locate a) = false ∧
        hostWrite a v s = s.recordFault .writeWhileBusy) ∨
      (misaligned a = false ∧ (s.busy = false ∨ writableWhileBusy (locate a) = true) ∧
        hostWrite a v s = writeRegion a v s) := by
  unfold hostWrite
  cases misaligned a <;> cases s.busy <;> cases writableWhileBusy (locate a) <;> simp

/-- A step is one of three: the platform's reset, a host step, an engine step. -/
theorem step_cases (s : State) :
    (nextMove s = .reset ∧ step s = .next (platformReset (popMove s))) ∨
      (nextMove s = .host ∧ step s = .next (hostStep (popMove s))) ∨
      (nextMove s = .engine ∧ step s = engineStep (popMove s)) := by
  unfold step moveStep
  cases nextMove s <;> simp

/-- Everything an engine step can do: nothing when idle, ILLEGAL_CMD, or a command. -/
theorem engineStep_cases (s : State) :
    (s.busy = false ∧ engineStep s = .next s) ∨
      (s.busy = true ∧ (∃ e, decodeWord s.pending = .error e) ∧ engineStep s = .next (s.raiseError .illegalCmd)) ∨
      (s.busy = true ∧ ∃ i, decodeWord s.pending = .ok i ∧ engineStep s = exec i s) := by
  unfold engineStep
  cases s.busy
  · simp
  · cases h : decodeWord s.pending <;> simp

/-! ### Where an offset lies (20_memory R62) -/

theorem locate_offset (r : Reg) : misaligned r.offset = false ∧ locate r.offset = .reg r := by
  cases r <;> exact ⟨rfl, rfl⟩

/-- A write to a register (10_state R23, 70 R305). -/
theorem hostWrite_offset (r : Reg) (v : Word) (s : State) :
    hostWrite r.offset v s =
      if s.busy && !writableWhileBusy (.reg r) then s.recordFault .writeWhileBusy else writeReg r v s := by
  simp [hostWrite, writeRegion, (locate_offset r).1, (locate_offset r).2]

/-- A read of a register (10_state R23, 70 R306). -/
theorem hostRead_offset (r : Reg) (s : State) :
    hostRead r.offset s =
      if s.busy && !regSettled r then (some (Config.busyRead s.draws), s.countDraws 1) else (some (readReg r s), s) := by
  simp [hostRead, readRegion, settled, (locate_offset r).1, (locate_offset r).2]

/-- While no command runs a register reads as it is (10_state R23). -/
theorem hostRead_idle (r : Reg) {s : State} (hb : s.busy = false) : hostRead r.offset s = (some (readReg r s), s) := by
  simp [hostRead_offset, hb]

/-- While no command runs a register is written as its access kind says (10_state R23). -/
theorem hostWrite_idle (r : Reg) (v : Word) {s : State} (hb : s.busy = false) :
    hostWrite r.offset v s = writeReg r v s := by
  simp [hostWrite_offset, hb]

/-- Above the registers the windows decide. -/
theorem locate_of_high {a : Offset} (h : 0x40 ≤ a.toNat) :
    locate a =
      if Buffer.txbuf.contains a.toNat then .buffer .txbuf
      else if Buffer.banner.contains a.toNat then .buffer .banner
      else if Buffer.rndbuf.contains a.toNat then .buffer .rndbuf
      else if h : 0x1000 ≤ a.toNat ∧ a.toNat < 0x19C0 then .mtWord ⟨(a.toNat - 0x1000) / 4, by omega⟩
      else if Buffer.rxbuf.contains a.toNat then .buffer .rxbuf
      else .unmapped := by
  have h16 : Reg.all[a.toNat / 4]? = none := by
    apply List.getElem?_eq_none
    show 16 ≤ _
    omega
  simp only [locate, h16]

/-- RX_CAP is a multiple of 4 in [12, 32768] (00_scope R6). -/
theorem rxCap_bounds : 12 ≤ Config.rxCap ∧ Config.rxCap ≤ 32768 ∧ Config.rxCap % 4 = 0 := by
  have := Config.rxCapChoice.isLt
  unfold Config.rxCap
  omega

theorem contains_iff {b : Buffer} {a : Nat} : b.contains a = true ↔ b.base ≤ a ∧ a < b.base + b.size := by
  simp [Buffer.contains]

/-- An aligned offset in a buffer's window, and the three after it, lie inside the buffer (20_memory R65). -/
theorem locate_buffer_contains {a : Offset} {b : Buffer} (ha : misaligned a = false) (h : locate a = .buffer b)
    {x : Nat} (hx : a.toNat ≤ x) (hx' : x < a.toNat + 4) : b.contains x = true := by
  have h4 : a.toNat % 4 = 0 := by simpa [misaligned] using ha
  have hb : b.contains a.toNat = true := by
    unfold locate at h
    split at h
    · simp at h
    · split_ifs at h <;> simp_all
  rw [contains_iff] at hb ⊢
  have hbase : b.base % 4 = 0 := by cases b <;> rfl
  have hsize : b.size % 4 = 0 := by
    cases b <;> simp [Buffer.size, txSize, bannerCap, rndCap, Config.rxCap]
  omega

end Sys2Proof.Machine
end

