-- ==== Sys2Proof/Laws/PerInstr.lean ====
section
/-!
SUPPORT. Per command: its word has the pattern of its row under the row's mask (30_encoding R92), whatever its operands.
-/
namespace Sys2Proof.Laws.EncodeMatchesRow

/-- The word of the command matches the command's row, for every value of its fields. -/
def Statement (i : Instr) : Prop := encode i &&& i.row.mask = i.row.pattern

theorem nop : Statement .nop := rfl

theorem init : Statement .init := rfl

theorem cksum (sel : Sel) (zf : Bool) (len : Nat) : Statement (.cksum sel zf len) := by
  apply BitVec.eq_of_getLsbD_eq
  intro i hi
  simp only [encode, cmd32, Instr.row, cksumRow]
  interval_cases i <;> simp

theorem seed : Statement .seed := rfl

theorem next : Statement .next := rfl

theorem rand (len : Nat) : Statement (.rand len) := by
  apply BitVec.eq_of_getLsbD_eq
  intro i hi
  simp only [encode, cmd32, Instr.row, randRow]
  interval_cases i <;> simp

theorem decode : Statement .decode := rfl

theorem reply : Statement .reply := rfl

theorem process : Statement .process := rfl

end Sys2Proof.Laws.EncodeMatchesRow
end

