-- ==== Sys2Proof/Laws/Steps.lean ====
section
/-!
SUPPORT. Everything a step can do, once: the host's access by its effect, the engine's step by the command's effect, and
the effects as record updates. The whole-machine rules cite these and split no transition again.
-/
namespace Sys2Proof.Machine

/-! ### The host -/

/-- Everything a host write can do to the state. -/
theorem hostWrite_effects (a : Offset) (v : Word) (s : State) :
    (∃ r, hostWrite a v s = s.recordFault r) ∨
      (∃ r, (s.busy = false ∨ r = .cmd ∨ r = .status ∨ r = .irqEn) ∧ hostWrite a v s = writeReg r v s) ∨
      (∃ b, (b = .banner ∧ s.initd = false ∨ b = .rxbuf) ∧ s.busy = false ∧ misaligned a = false ∧
        locate a = .buffer b ∧ hostWrite a v s = s.writeWord a.toNat v) ∨
      hostWrite a v s = s := by
  rcases hostWrite_cases a v s with ⟨-, h⟩ | ⟨-, -, -, h⟩ | ⟨hm, hw, h⟩
  · exact .inl ⟨_, h⟩
  · exact .inl ⟨_, h⟩
  rw [h]
  unfold writeRegion
  cases hl : locate a with
  | reg r =>
    rw [hl] at hw
    exact .inr (.inl ⟨r, by cases r <;> simp_all [writableWhileBusy], rfl⟩)
  | buffer b =>
    rw [hl] at hw
    cases b with
    | rxbuf => exact .inr (.inr (.inl ⟨_, .inr rfl, by simpa [writableWhileBusy] using hw, hm, rfl, rfl⟩))
    | banner =>
      by_cases hi : s.initd = true
      · exact .inr (.inr (.inr (by simp [hi])))
      · exact .inr (.inr (.inl
          ⟨_, .inl ⟨rfl, by simpa using hi⟩, by simpa [writableWhileBusy] using hw, hm, rfl, by simp [hi]⟩))
    | txbuf => exact .inr (.inr (.inr rfl))
    | rndbuf => exact .inr (.inr (.inr rfl))
  | mtWord i => exact .inr (.inr (.inr rfl))
  | unmapped => exact .inr (.inr (.inr rfl))

/-- Everything a host step can do: besides the host's own state and the draw number, nothing, one recorded host fault, or
one write. -/
theorem hostStep_effects (s : State) :
    ∃ t h d, hostStep s = { t with host := h, draws := d } ∧
      (t = s ∨ (∃ r, t = s.recordFault r) ∨ ∃ a v, t = hostWrite a v s) := by
  have hr : ∀ a, ∃ v t d, hostRead a s = (v, { t with draws := d }) ∧ (t = s ∨ ∃ r, t = s.recordFault r) := by
    intro a
    rcases hostRead_cases a s with ⟨-, h⟩ | ⟨-, -, -, h⟩ | ⟨-, -, h⟩
    · exact ⟨_, _, s.draws, h, .inr ⟨_, rfl⟩⟩
    · exact ⟨_, s, _, h, .inl rfl⟩
    · exact ⟨_, s, s.draws, h, .inl rfl⟩
  unfold hostStep
  split
  · exact ⟨hostWrite _ _ s, _, _, rfl, .inr (.inr ⟨_, _, rfl⟩)⟩
  · next a _ =>
    obtain ⟨v, t, d, h, ht⟩ := hr a
    simp only [h]
    exact ⟨t, _, _, rfl, ht.imp id .inl⟩
  · next a _ _ _ _ =>
    obtain ⟨v, t, d, h, ht⟩ := hr a
    simp only [h]
    exact ⟨t, _, _, rfl, ht.imp id .inl⟩
  · exact ⟨s, _, s.draws, rfl, .inl rfl⟩
  · exact ⟨s, s.host, s.draws, rfl, .inl rfl⟩
  · exact ⟨s, s.host, s.draws, rfl, .inl rfl⟩

/-! ### The step -/

/-- Everything a step other than a reset can do: a host step, or of the engine nothing, an error, or the effect of a
command whose checks pass. -/
theorem step_next_cases {s t : State} (hr : nextMove s ≠ .reset) (h : step s = .next t) :
    (nextMove s = .host ∧ t = hostStep (popMove s)) ∨
      (nextMove s = .engine ∧
        (t = popMove s ∨ (∃ c, c ≠ .none ∧ t = (popMove s).raiseError c) ∨
          ∃ i, s.busy = true ∧ decodeWord s.pending = .ok i ∧ firstFailure (checksOf i (popMove s)) = none ∧
            t = (effectOf i (popMove s)).finish)) := by
  rcases step_cases s with ⟨h0, -⟩ | ⟨h0, h1⟩ | ⟨h0, h1⟩
  · exact absurd h0 hr
  · exact .inl ⟨h0, Host.Outcome.next.inj (h.symm.trans h1)⟩
  refine .inr ⟨h0, ?_⟩
  rw [h] at h1
  rcases engineStep_cases (popMove s) with ⟨-, h2⟩ | ⟨-, -, h2⟩ | ⟨hb, i, hi, h2⟩ <;> rw [h2] at h1
  · exact .inl (Host.Outcome.next.inj h1)
  · exact .inr (.inl ⟨_, by simp, Host.Outcome.next.inj h1⟩)
  · rcases exec_cases i (popMove s) with ⟨c, hc, h3⟩ | ⟨hf, h3⟩ <;> rw [h3] at h1
    · exact .inr (.inl ⟨_, firstFailure_checksOf_ne_none hc, Host.Outcome.next.inj h1⟩)
    · exact .inr (.inr ⟨i, hb, hi, hf, Host.Outcome.next.inj h1⟩)

/-! ### The effects as record updates -/

/-- What NEXT writes. -/
theorem nextEffect_eq (s : State) :
    nextEffect s =
      { s with mtOut := (mtNext s).1, prng := (mtNext s).2.prng, draws := (mtNext s).2.draws } := by
  obtain ⟨p, d, h, -⟩ := mtNext_frame s
  simp [nextEffect, h]

/-- What RAND writes. -/
theorem randEffect_eq (n : Nat) (s : State) :
    randEffect n s = { s with
      mem := Memory.writeBytes s.mem 0x300 ((randomBytes n s).1 ++ zeros (64 - n))
      rndLen := BitVec.ofNat 7 n, prng := (randomBytes n s).2.prng, draws := (randomBytes n s).2.draws } := by
  obtain ⟨p, d, h, -⟩ := randomBytes_frame n s
  simp [randEffect, h, State.writeBytes]
  rfl

/-- What a decode writes. -/
theorem applyDecoded_eq (d : Decoded) (s : State) :
    applyDecoded d s = { s with
      decResult := (applyDecoded d s).decResult, decFlags := (applyDecoded d s).decFlags
      msgidHi := (applyDecoded d s).msgidHi, msgidLo := (applyDecoded d s).msgidLo } := by
  cases d <;> rfl

/-- PROCESS is the decode and the reply, or the decode and TXV cleared. -/
theorem processEffect_cases (s : State) :
    (∃ id flags ckp, decodeDatagram (datagram s) = .accept id flags true ckp ∧
        processEffect s = replyEffect (applyDecoded (.accept id flags true ckp) s)) ∨
      ((∀ id flags ckp, decodeDatagram (datagram s) ≠ .accept id flags true ckp) ∧
        processEffect s = { decodeEffect s with txv := false }) := by
  unfold processEffect
  split
  · next id flags ckp h => exact .inl ⟨id, flags, ckp, h, rfl⟩
  · next hd => exact .inr ⟨fun id flags ckp h => hd id flags ckp h, rfl⟩

/-- What REPLY writes. -/
theorem replyEffect_eq (s : State) :
    ∃ bs, bs.length = 128 ∧ replyEffect s = { s with
      mem := Memory.writeBytes s.mem 0x100 bs
      prng := (randomBytes 6 s).2.prng, draws := (randomBytes 6 s).2.draws, txv := true } := by
  obtain ⟨bs, hl, h⟩ := buildReply_frame s
  exact ⟨bs, hl, by rw [replyEffect, h]⟩

/-- Everything the effect of a command whose checks pass can do. -/
theorem effectOf_forms (i : Instr) (s : State) (hf : firstFailure (checksOf i s) = none) :
    (i = .nop ∧ effectOf i s = s) ∨
    (i = .init ∧ s.initd = false ∧ s.bannerLen.toNat ≤ 100 ∧
      effectOf i s = { s with srcHw := selectsHardware s, initd := true }) ∨
    (∃ sel zf n, i = .cksum sel zf n ∧ effectOf i s = cksumEffect sel zf n s) ∨
    (i = .seed ∧ effectOf i s = { s with prng := mtSeed s.mtSeed }) ∨
    (i = .next ∧ effectOf i s =
      { s with mtOut := (mtNext s).1, prng := (mtNext s).2.prng, draws := (mtNext s).2.draws }) ∨
    (∃ n bs, i = .rand n ∧ n ≤ 64 ∧ bs.length = 64 ∧ s.initd = true ∧ effectOf i s = { s with
      mem := Memory.writeBytes s.mem 0x300 bs, rndLen := BitVec.ofNat 7 n
      prng := (randomBytes n s).2.prng, draws := (randomBytes n s).2.draws }) ∨
    (∃ D v, (i = .decode ∨ i = .process) ∧ (v = s.txv ∨ v = false) ∧ effectOf i s = { s with
      decResult := (applyDecoded (decodeDatagram D) s).decResult
      decFlags := (applyDecoded (decodeDatagram D) s).decFlags
      msgidHi := (applyDecoded (decodeDatagram D) s).msgidHi
      msgidLo := (applyDecoded (decodeDatagram D) s).msgidLo, txv := v }) ∨
    (∃ bs, i = .reply ∧ bs.length = 128 ∧ effectOf i s = { s with
      mem := Memory.writeBytes s.mem 0x100 bs
      prng := (randomBytes 6 s).2.prng, draws := (randomBytes 6 s).2.draws, txv := true }) ∨
    (∃ bs D, i = .process ∧ bs.length = 128 ∧ effectOf i s = { s with
      decResult := (applyDecoded (decodeDatagram D) s).decResult
      decFlags := (applyDecoded (decodeDatagram D) s).decFlags
      msgidHi := (applyDecoded (decodeDatagram D) s).msgidHi
      msgidLo := (applyDecoded (decodeDatagram D) s).msgidLo
      mem := Memory.writeBytes s.mem 0x100 bs
      prng := (randomBytes 6 s).2.prng, draws := (randomBytes 6 s).2.draws, txv := true }) := by
  cases i with
  | nop => exact .inl ⟨rfl, rfl⟩
  | init =>
    have h : s.initd = false ∧ s.bannerLen.toNat ≤ 100 := by
      simpa only [checksOf, bannerCap, firstFailure_cons_eq_none, firstFailure_nil, exceeds_eq_false,
        and_true] using hf
    exact .inr (.inl ⟨rfl, h.1, h.2, rfl⟩)
  | cksum sel zf n => exact .inr (.inr (.inl ⟨_, _, _, rfl, rfl⟩))
  | seed => exact .inr (.inr (.inr (.inl ⟨rfl, rfl⟩)))
  | next => exact .inr (.inr (.inr (.inr (.inl ⟨rfl, nextEffect_eq s⟩))))
  | rand n =>
    have h : s.initd = true ∧ n ≤ 64 := by
      simpa only [checksOf, rndCap, firstFailure_cons_eq_none, firstFailure_nil, exceeds_eq_false,
        and_true, Bool.not_eq_false'] using hf
    exact .inr (.inr (.inr (.inr (.inr (.inl
      ⟨n, _, rfl, h.2, by simp; omega, h.1, randEffect_eq n s⟩)))))
  | decode =>
    exact .inr (.inr (.inr (.inr (.inr (.inr (.inl
      ⟨datagram s, s.txv, .inl rfl, .inl rfl, applyDecoded_eq _ s⟩))))))
  | reply =>
    obtain ⟨bs, hl, h⟩ := replyEffect_eq s
    exact .inr (.inr (.inr (.inr (.inr (.inr (.inr (.inl ⟨bs, rfl, hl, h⟩)))))))
  | process =>
    rcases processEffect_cases s with ⟨id, flags, ckp, hd, h⟩ | ⟨-, h⟩
    · obtain ⟨bs, hl, h'⟩ := replyEffect_eq (applyDecoded (.accept id flags true ckp) s)
      refine .inr (.inr (.inr (.inr (.inr (.inr (.inr (.inr ⟨bs, datagram s, rfl, hl, ?_⟩)))))))
      obtain ⟨-, hp, hdr⟩ :=
        randomBytes_congr 6 (s := applyDecoded (.accept id flags true ckp) s) (t := s) ⟨rfl, rfl⟩ rfl
      show processEffect s = _
      rw [h, h', hp, hdr, hd]
      rfl
    · refine .inr (.inr (.inr (.inr (.inr (.inr (.inl ⟨datagram s, false, .inr rfl, .inr rfl, ?_⟩))))))
      show processEffect s = _
      rw [h, decodeEffect]
      conv_lhs => rw [applyDecoded_eq]

/-! ### The buffers do not overlap (20_memory R62) -/

theorem contains_unique {b b' : Buffer} {a : Nat} (h : b.contains a = true) (h' : b'.contains a = true) : b = b' := by
  rw [contains_iff] at h h'
  cases b <;> cases b' <;> simp [Buffer.base, Buffer.size, txSize, bannerCap, rndCap] at * <;> omega

/-- A window write leaves the other buffers alone. -/
theorem sameBuffer_writeWord (s : State) {a : Offset} {b b' : Buffer} (v : Word) (hm : misaligned a = false)
    (hl : locate a = .buffer b) (hb : b ≠ b') : sameBuffer b' s (s.writeWord a.toNat v) := by
  intro x hx
  apply readByte_writeBytes_outside
  by_contra hc
  rw [length_bytesBE32] at hc
  exact hb (contains_unique (locate_buffer_contains hm hl (x := x) (by omega) (by omega)) hx)

/-- A byte sequence written into a buffer leaves the other buffers alone. -/
theorem sameBuffer_writeBytes (s : State) {b b' : Buffer} {bs : List Byte} (hlen : bs.length ≤ b.size) (hb : b ≠ b') :
    sameBuffer b' s (s.writeBytes b.base bs) := by
  intro x hx
  apply readByte_writeBytes_outside
  by_contra hc
  exact hb (contains_unique (contains_iff.mpr ⟨by omega, by omega⟩) hx)

end Sys2Proof.Machine
end

