-- ==== Sys2Proof/Tests/Slice0.lean ====
section
/-!
SUPPORT. Small tests. Every expected value is a row of 95_test_vectors or of the spec's tables; the row is named.
-/
namespace Sys2Proof.Tests
open Sys2Proof.Machine

/-! ### States to start from -/

/-- The state an outcome gives. -/
def after (o : Host.Outcome State Fault Refusal) : State :=
  match o with
  | .next s => s
  | .fault _ => State.reset
  | .refused _ => State.reset

/-- After INIT with FORCE_MT = 1. -/
def ready : State := { State.reset with initd := true, forceMt := true }

/-- The first two words of the MT state after the first twist of seed 5489 (TW-01, TW-02), the cursor at the first. -/
def twisted : Prng where
  mt := Vector.ofFn fun i => if i.val = 0 then 0x9B0AFA27 else if i.val = 1 then 0xE99DE361 else 0
  cursor := 0
  seeded := true

/-- The datagram in RXBUF, its length in RX_LEN. -/
def withDatagram (D : List Byte) (s : State) : State :=
  { s.writeBytes 0x8000 D with rxLen := BitVec.ofNat 16 D.length }

/-- The banner in BANNER, its length in BANNER_LEN. -/
def withBanner (B : List Byte) (s : State) : State :=
  { s.writeBytes 0x200 B with bannerLen := BitVec.ofNat 8 B.length }

/-- The datagram of S9 with the given magic and flags. -/
def datagramOf (m0 m1 f0 f1 : Byte) : List Byte :=
  [m0, m1, 0x00, 0x00, 0xAA, 0xAA, 0xAA, 0xAA, 0xAA, 0xAA, f0, f1]

/-- The command pending and the move the engine's. -/
def pendingCommand (w : Word) (s : State) : State := { s with pending := w, busy := true, sched := [.engine] }

/-! ### WellFormed: an ill-formed term for each check -/

theorem test_wellFormed_refuses_long_cksum : Instr.wellFormed (.cksum .tx true 65536) = false := by decide

theorem test_wellFormed_refuses_long_rand : Instr.wellFormed (.rand 65536) = false := by decide

theorem test_wellFormed_accepts_longest :
    Instr.wellFormed (.cksum .rx false 65535) = true ∧ Instr.wellFormed (.rand 65535) = true := by decide

/-! ### Decode: each word from the fields of 30_encoding R90, LEN RES ZF SEL OP -/

theorem test_decode_nop : decodeWord (0b0000000000000000#16 ++ 0b000000#6 ++ 0b0#1 ++ 0b0#1 ++ 0b00000000#8) = .ok .nop := by
  decide

theorem test_decode_init :
    decodeWord (0b0000000000000000#16 ++ 0b000000#6 ++ 0b0#1 ++ 0b0#1 ++ 0b00000001#8) = .ok .init := by decide

theorem test_decode_cksum_rx_zf :
    decodeWord (0b0000000000001100#16 ++ 0b000000#6 ++ 0b1#1 ++ 0b0#1 ++ 0b00000010#8) = .ok (.cksum .rx true 12) := by
  decide

theorem test_decode_cksum_tx :
    decodeWord (0b0000000010000000#16 ++ 0b000000#6 ++ 0b0#1 ++ 0b1#1 ++ 0b00000010#8) = .ok (.cksum .tx false 128) := by
  decide

theorem test_decode_seed :
    decodeWord (0b0000000000000000#16 ++ 0b000000#6 ++ 0b0#1 ++ 0b0#1 ++ 0b00000011#8) = .ok .seed := by decide

theorem test_decode_next :
    decodeWord (0b0000000000000000#16 ++ 0b000000#6 ++ 0b0#1 ++ 0b0#1 ++ 0b00000100#8) = .ok .next := by decide

theorem test_decode_rand :
    decodeWord (0b0000000000010001#16 ++ 0b000000#6 ++ 0b0#1 ++ 0b0#1 ++ 0b00000101#8) = .ok (.rand 17) := by decide

theorem test_decode_decode :
    decodeWord (0b0000000000000000#16 ++ 0b000000#6 ++ 0b0#1 ++ 0b0#1 ++ 0b00000110#8) = .ok .decode := by decide

theorem test_decode_reply :
    decodeWord (0b0000000000000000#16 ++ 0b000000#6 ++ 0b0#1 ++ 0b0#1 ++ 0b00000111#8) = .ok .reply := by decide

theorem test_decode_process :
    decodeWord (0b0000000000000000#16 ++ 0b000000#6 ++ 0b0#1 ++ 0b0#1 ++ 0b00001000#8) = .ok .process := by decide

/-- CT-02 to CT-04, SN-06, CC-10, RD-05: words that are no command, by the two names. -/
theorem test_decode_refuses :
    decodeWord 0x00000009 = .error .reservedOp ∧ decodeWord 0x000000FF = .error .reservedOp ∧
    decodeWord 0x00010000 = .error .nonzeroUnusedBits ∧ decodeWord 0x00000401 = .error .nonzeroUnusedBits ∧
    decodeWord 0x00000104 = .error .nonzeroUnusedBits ∧ decodeWord 0x00000402 = .error .nonzeroUnusedBits ∧
    decodeWord 0x00060105 = .error .nonzeroUnusedBits := by decide

/-! ### Commands -/

/-- CT-01. -/
theorem test_nop_status : (after (step (State.reset.withFetchWord 32 0x00000000))).statusWord = 0x00000002 := by decide

/-- CT-02. -/
theorem test_illegal_status : (after (step (State.reset.withFetchWord 32 0x00010000))).statusWord = 0x00000104 := by decide

/-- CT-05. -/
theorem test_init_status :
    (after (exec .init { State.reset with bannerLen := 3, forceMt := true })).statusWord = 0x0000000A := by decide

/-- CT-07. -/
theorem test_init_config_status :
    (after (exec .init { State.reset with bannerLen := 101 })).statusWord = 0x00000504 := by decide

/-- CC-01. -/
theorem test_cksum_zero_field_result :
    (after (exec (.cksum .rx true 12) (State.reset.writeBytes 0x8000
      [0x32, 0x50, 0xC4, 0xA2, 0x01, 0x02, 0x03, 0x04, 0x05, 0x06, 0x00, 0x01]))).ckResult = 0xC4A2 := by decide

/-- CC-08. -/
theorem test_cksum_too_long_status : (after (exec (.cksum .tx false 129) State.reset)).statusWord = 0x00000304 := by decide

/-- CK-07: the second fold matters. CK-09: an odd last byte is a high byte. -/
theorem test_cksum_folds :
    cksum [0xFF, 0xFF, 0xFF, 0xFF, 0x00, 0x01] = 0xFFFE ∧
    cksum [0x00, 0x01, 0xF2, 0x03, 0xF4, 0xF5, 0xF6] = 0x2304 := by decide

/-- SN-01. -/
theorem test_seed_status : (after (exec .seed { State.reset with mtSeed := 0x1571 })).statusWord = 0x00000012 := by decide

/-- MT-01. -/
theorem test_seed_words :
    seedWord 5489 1 = 0x4D98EE96 ∧ seedWord 5489 2 = 0xAF25F095 ∧ seedWord 5489 3 = 0xAFD9BA96 := by decide

/-- TP-05, TP-06. -/
theorem test_temper : temper 0x12345678 = 0x2B7E4A2D ∧ temper 0x9B0AFA27 = 0xD091BB5C := by decide +kernel

/-- TW-01, TW-04: word 0 from old words, word 227 with the new word 0 as its far word. -/
theorem test_twist_words :
    twistWord (seedWord 5489 0) (seedWord 5489 1) (seedWord 5489 397) = 0x9B0AFA27 ∧
    twistWord (seedWord 5489 227) (seedWord 5489 228) 0x9B0AFA27 = 0x53E4F8A7 := by decide +kernel

/-- SN-02, SN-03: the first and the second output of seed 5489, from the twisted words. -/
theorem test_next_output : (after (exec .next { State.reset with prng := twisted })).mtOut = 0xD091BB5C := by decide +kernel

theorem test_next_cursor :
    (after (exec .next { State.reset with prng := { twisted with cursor := 1 } })).mtOut = 0x22AE9EF6 ∧
    (after (exec .next { State.reset with prng := { twisted with cursor := 1 } })).prng.cursor = 2 := by decide +kernel

/-- RB-06: the last two bytes are the trailing bytes of the second word. -/
theorem test_rand_bytes :
    (after (exec (.rand 6) { ready with prng := twisted })).readBytes 0x300 8 =
      [0xD0, 0x91, 0xBB, 0x5C, 0x9E, 0xF6, 0x00, 0x00] := by decide +kernel

/-- RD-04. -/
theorem test_rand_not_init_first : (after (exec (.rand 65) State.reset)).errcode = .notInit := by decide

/-- DEC-05. -/
theorem test_decode_accepts :
    (after (exec .decode (withDatagram (datagramOf 0x32 0x50 0x00 0x01) State.reset))).decResult.word = 0x00000003 ∧
    (after (exec .decode (withDatagram (datagramOf 0x32 0x50 0x00 0x01) State.reset))).msgidLo = 0xAAAA := by decide

/-- DEC-07. -/
theorem test_decode_discards_checksum :
    (after (exec .decode (withDatagram
      [0x32, 0x50, 0xC4, 0xA2, 0x01, 0x02, 0x03, 0x04, 0x05, 0x07, 0x00, 0x01] State.reset))).decResult.word =
      0x00000030 := by decide

/-- REP-04, the head of the reply. -/
theorem test_reply_bytes :
    (after (exec .reply (withBanner [0x32, 0x50, 0x4D]
      { ready with prng := twisted, msgidHi := 0xAAAAAAAA, msgidLo := 0xAAAA }))).readBytes 0x100 32 =
      [0x32, 0x50, 0x1A, 0xC7, 0xD0, 0x91, 0xBB, 0x5C, 0x9E, 0xF6, 0x80, 0x02, 0x00, 0x06, 0xAA, 0xAA,
       0xAA, 0xAA, 0xAA, 0xAA, 0x00, 0x09, 0x32, 0x50, 0x56, 0x4E, 0x00, 0x03, 0x32, 0x50, 0x4D, 0x00] := by decide +kernel

/-- ENC-03. -/
theorem test_reply_before_init : (after (exec .reply State.reset)).statusWord = 0x00000404 := by decide

/-- PR-01. -/
theorem test_process_replies :
    (after (exec .process (withDatagram (datagramOf 0x32 0x50 0x00 0x01) (withBanner [0x32, 0x50, 0x4D]
      { ready with prng := twisted })))).readBytes 0x100 6 = [0x32, 0x50, 0x1A, 0xC7, 0xD0, 0x91] := by decide +kernel

/-- PR-03. -/
theorem test_process_discards :
    (after (exec .process (withDatagram (datagramOf 0x00 0x00 0x00 0x01) ready))).decResult.word = 0x00000020 ∧
    (after (exec .process (withDatagram (datagramOf 0x00 0x00 0x00 0x01) { ready with txv := true }))).txv = false := by
  decide

/-! ### The host -/

/-- CT-11: the overrun, then the end of NOP. -/
theorem test_overrun_then_finish :
    (hostWrite 0x000 0 (hostWrite 0x000 0 State.reset)).statusWord = 0x00000205 ∧
    (after (engineStep (hostWrite 0x000 0 (hostWrite 0x000 0 State.reset)))).statusWord = 0x00000206 := by decide

/-- CT-13, CT-14. -/
theorem test_status_clears :
    (hostWrite 0x004 0x4 { State.reset with done := true, err := true, errcode := .lenRange }).statusWord = 0x2 ∧
    (hostWrite 0x004 0x1 { ready with done := true, txv := true }).statusWord = 0x2A := by decide

/-- CT-19, CT-20. -/
theorem test_host_faults :
    (hostRead 0x8002 State.reset).2.fault = [.misaligned] ∧
    (hostWrite 0x014 12 { State.reset with busy := true }).fault = [.writeWhileBusy] := by decide

/-- CT-21, CT-23. -/
theorem test_reset_reads :
    (hostRead 0x0040 State.reset).1 = some 0 ∧ (hostRead 0x0180 State.reset).1 = some 0 ∧
    (hostRead 0x0264 State.reset).1 = some 0 ∧ (hostRead 0x028 State.reset).1 = some 0x270 := by decide

/-- 30_encoding R98: WAIT polls BUSY at its own position; the program of CT-01. -/
theorem test_assemble :
    assemble [.command .nop, .wait, .halt] = some [.wr 0x000 0, .jf 0x004 1 1 1, .halt] := by decide

/-! ### Witnesses: the hypotheses of each obligation can be met, each clause at a boundary -/

/-- A reset state after INIT with a banner of 100 bytes. -/
def fullBanner : State := { ready with bannerLen := 100 }

/-- RX_LEN one greater than RX_CAP. -/
def tooLong (s : State) : State := { s with rxLen := BitVec.ofNat 16 (Config.rxCap + 1) }

theorem rxLen_tooLong (s : State) : Config.rxCap < (tooLong s).rxLen.toNat := by
  have := rxCap_bounds
  simp only [tooLong, BitVec.toNat_ofNat]
  omega

theorem reply_completes (s : State) (h : s.initd = true) : exec .reply s = .next (replyEffect s).finish := by
  simp [exec, execReply, runCommand, h]

theorem witness_WorkedEncodingsDecode :
    (pendingCommand 0x00010000 State.reset).busy = true ∧ (pendingCommand 0x00010000 State.reset).pending = 0x00010000 :=
  ⟨rfl, rfl⟩

theorem witness_DecodeEncodeRoundTrip :
    (Instr.cksum .tx true 65535).wellFormed = true ∧ (Instr.rand 65535).wellFormed = true ∧
    (Instr.cksum .rx false 0).wellFormed = true := by decide

theorem witness_EncodeDecodeRoundTrip :
    decodeWord 0xFFFF0302 = .ok (.cksum .tx true 65535) ∧ decodeWord 0xFFFF0005 = .ok (.rand 65535) ∧
    decodeWord 0x00000008 = .ok .process := by decide

theorem witness_MatchAndMaskSelectCommand :
    (0x00000000 : Word) &&& 0xFFFFFFFF = 0x00000000 ∧ (0x00000001 : Word) &&& 0xFFFFFFFF = 0x00000001 ∧
    (0xFFFF0302 : Word) &&& 0x0000FCFF = 0x00000002 ∧ (0x00000003 : Word) &&& 0xFFFFFFFF = 0x00000003 ∧
    (0x00000004 : Word) &&& 0xFFFFFFFF = 0x00000004 ∧ (0xFFFF0005 : Word) &&& 0x0000FFFF = 0x00000005 ∧
    (0x00000006 : Word) &&& 0xFFFFFFFF = 0x00000006 ∧ (0x00000007 : Word) &&& 0xFFFFFFFF = 0x00000007 ∧
    (0x00000008 : Word) &&& 0xFFFFFFFF = 0x00000008 ∧
    (∀ r ∈ encodingRows, (0x00000402 : Word) &&& r.mask ≠ r.pattern) := by decide

theorem witness_IllegalWordOnlyReportsError :
    (pendingCommand 0x00000402 State.reset).engineTurn ∧
    (∀ r ∈ encodingRows, (pendingCommand 0x00000402 State.reset).pending &&& r.mask ≠ r.pattern) ∧
    0x09 ≤ (0x00000009 : Word).toNat % 256 ∧ 0x09 ≤ (0xFFFFFFFF : Word).toNat % 256 :=
  ⟨⟨rfl, rfl⟩, by decide, by decide, by decide⟩

theorem witness_EngineStepRunsDecodedCommand :
    (pendingCommand 0x00410005 State.reset).engineTurn ∧
    decodeWord (pendingCommand 0x00410005 State.reset).pending = .ok (.rand 65) ∧
    decodeTableWord 32 0x00410005 = some (.rand 65) := ⟨⟨rfl, rfl⟩, by decide, by decide⟩

theorem witness_EngineStepEndsCommand : (pendingCommand 0x00000000 State.reset).engineTurn := ⟨rfl, rfl⟩

theorem witness_ChecksFailInOrder :
    firstCheckFailing (.rand 65) State.reset = some .notInit ∧ firstCheckFailing .reply State.reset = some .notInit ∧
    firstCheckFailing .process State.reset = some .notInit ∧ firstCheckFailing .init ready = some .alreadyInit ∧
    firstCheckFailing (.rand 65) ready = some .lenRange ∧ firstCheckFailing (.cksum .tx false 129) ready = some .lenRange ∧
    firstCheckFailing .init { State.reset with bannerLen := 101 } = some .config ∧
    firstCheckFailing (.rand 64) ready = none ∧ firstCheckFailing (.cksum .tx false 128) State.reset = none ∧
    firstCheckFailing .init { State.reset with bannerLen := 100 } = none := by decide

theorem witness_ChecksFailInOrder_rxLen : firstCheckFailing .decode (tooLong State.reset) = some .lenRange ∧
    firstCheckFailing .process (tooLong ready) = some .lenRange ∧
    firstCheckFailing (.cksum .rx true (Config.rxCap + 1)) State.reset = some .lenRange := by
  have h := rxLen_tooLong State.reset
  have h' := rxLen_tooLong ready
  refine ⟨?_, ?_, ?_⟩
  · simp [firstCheckFailing, needsInit, lengthExceeds, h]
  · have hi : (tooLong ready).initd = true := rfl
    simp [firstCheckFailing, needsInit, lengthExceeds, h', hi]
  · simp [firstCheckFailing, needsInit, lengthExceeds]

theorem witness_ChecksFailInOrder_illegal :
    (pendingCommand 0x000000FF State.reset).busy = true ∧ illegal (pendingCommand 0x000000FF State.reset).pending :=
  ⟨rfl, illegal_iff.mpr ⟨.reservedOp, by decide⟩⟩

theorem witness_NopOnlySetsDone :
    (0x00000000 : Word).extractLsb' 0 8 = (0x00000000 : Word).extractLsb' 0 8 ∧
    (0x00010000 : Word).extractLsb' 0 8 = (0x00000000 : Word).extractLsb' 0 8 ∧
    (0x00010000 : Word) &&& 0xFFFFFFFF ≠ 0x00000000 := by decide

theorem witness_InitLatchesConfiguration :
    ((0x00000401 : Word).extractLsb' 0 8 = (0x00000001 : Word).extractLsb' 0 8 ∧
      (0x00000401 : Word) &&& 0xFFFFFFFF ≠ 0x00000001) ∧
    ready.initd = true ∧
    ({ State.reset with bannerLen := 101 }.initd = false ∧ 100 < { State.reset with bannerLen := 101 }.bannerLen.toNat) ∧
    ({ State.reset with bannerLen := 100 }.initd = false ∧ { State.reset with bannerLen := 100 }.bannerLen.toNat ≤ 100) := by
  decide

theorem witness_TwoFoldsFitSixteenBits : (List.replicate 32768 (0xFF : Byte)).length ≤ 32768 :=
  le_of_eq List.length_replicate

theorem witness_ZeroFieldViewZeroesBytesTwoAndThree :
    2 < ([0x12, 0x34, 0x56] : List Byte).length ∧ 3 < ([0x12, 0x34, 0x56, 0x78] : List Byte).length := by decide

theorem witness_CksumWritesChecksumOfPrefix :
    ((0xFFFF0302 : Word).extractLsb' 0 8 = (0x00000002 : Word).extractLsb' 0 8 ∧
      (0xFFFF0302 : Word) &&& 0x0000FCFF = 0x00000002 ∧ (0x00000402 : Word) &&& 0x0000FCFF ≠ 0x00000002) ∧
    Config.rxCap < Config.rxCap + 1 ∧ Config.rxCap ≤ Config.rxCap ∧ 128 < 129 ∧ 128 ≤ 128 :=
  ⟨by decide, Nat.lt_succ_self _, le_refl _, by decide, le_refl _⟩

theorem witness_TrailingZerosKeepChecksum : fullBanner.initd = true ∧ fullBanner.bannerLen.toNat ≤ 100 := by decide

theorem witness_SeedingFollowsRecurrence : 0 + 1 < 624 ∧ 622 + 1 < 624 := by decide

theorem witness_SeedSeedsFromMtSeed :
    (0x80000003 : Word).extractLsb' 0 8 = (0x00000003 : Word).extractLsb' 0 8 ∧
    (0x80000003 : Word) &&& 0xFFFFFFFF ≠ 0x00000003 := by decide

theorem witness_TwistInClosedForm : 226 < 227 ∧ (227 < 623 ∧ 227 ≤ 227) ∧ (622 < 623 ∧ 227 ≤ 622) := by decide

theorem witness_ExtractionTwistsLazily :
    State.reset.prng.cursor.val = 624 ∧ { twisted with cursor := 623 }.cursor.val < 624 ∧ twisted.cursor.val < 624 := by
  decide +kernel

theorem witness_NextExtractsOneWord :
    (0x00000104 : Word).extractLsb' 0 8 = (0x00000004 : Word).extractLsb' 0 8 ∧
    (0x00000104 : Word) &&& 0xFFFFFFFF ≠ 0x00000004 ∧
    { State.reset with prng := twisted }.prng.seeded = true ∧ State.reset.prng.seeded = false := by decide +kernel

theorem witness_ByteRequestAssembly : 15 < 4 * (17 / 4) ∧ (4 * (17 / 4) ≤ 16 ∧ 16 < 17) ∧ (4 * (7 / 4) ≤ 6 ∧ 6 < 7) := by
  decide

theorem witness_StreamIsFunctionOfSeed :
    ∃ t t', State.reset.mtSeed = { ready with prng := twisted }.mtSeed ∧ exec .seed State.reset = .next t ∧
      exec .seed { ready with prng := twisted } = .next t' := ⟨_, _, rfl, rfl, rfl⟩

theorem witness_RandomBytesComeFromSelectedSource :
    { ready with srcHw := true }.srcHw = true ∧ State.reset.srcHw = false ∧ 5 < 6 := by decide

theorem witness_RandFillsRandomBuffer :
    ((0xFFFF0005 : Word).extractLsb' 0 8 = (0x00000005 : Word).extractLsb' 0 8 ∧
      (0xFFFF0005 : Word) &&& 0x0000FFFF = 0x00000005 ∧ (0x00060105 : Word) &&& 0x0000FFFF ≠ 0x00000005) ∧
    State.reset.initd = false ∧ (ready.initd = true ∧ 64 < 65) ∧ (ready.initd = true ∧ 64 ≤ 64) ∧
    ({ ready with srcHw := true }.srcHw = true ∧ 0 = 0) := by decide

theorem witness_DecodeValidatesInOrder :
    (([0x32, 0x50] ++ zeros 9).length < 12) ∧
    (12 ≤ (datagramOf 0x32 0x51 0 1).length ∧
      ¬ ((datagramOf 0x32 0x51 0 1).getD 0 0 = 0x32 ∧ (datagramOf 0x32 0x51 0 1).getD 1 0 = 0x50)) ∧
    (12 ≤ (datagramOf 0x32 0x50 0 1).length ∧
      ((datagramOf 0x32 0x50 0 1).getD 0 0 = 0x32 ∧ (datagramOf 0x32 0x50 0 1).getD 1 0 = 0x50) ∧
      ((datagramOf 0x32 0x50 0 1).getD 2 0).toNat * 256 + ((datagramOf 0x32 0x50 0 1).getD 3 0).toNat = 0) ∧
    (cksum (zeroField [0x32, 0x50, 0xC4, 0xA2, 0x01, 0x02, 0x03, 0x04, 0x05, 0x06, 0x00, 0x01])).toNat =
      0xC4 * 256 + 0xA2 ∧
    (cksum (zeroField [0x32, 0x50, 0xC4, 0xA2, 0x01, 0x02, 0x03, 0x04, 0x05, 0x07, 0x00, 0x01])).toNat ≠
      0xC4 * 256 + 0xA2 := by decide

theorem witness_DecodeWritesResultRegisters :
    ((0x00010006 : Word).extractLsb' 0 8 = (0x00000006 : Word).extractLsb' 0 8 ∧
      (0x00010006 : Word) &&& 0xFFFFFFFF ≠ 0x00000006) ∧
    (State.reset.rxLen.toNat ≤ Config.rxCap ∧
      decodeDatagram (State.reset.readBytes 0x8000 State.reset.rxLen.toNat) = .discard .short) ∧
    ((withDatagram (datagramOf 0x32 0x50 0 1) State.reset).rxLen.toNat ≤ Config.rxCap ∧
      decodeDatagram ((withDatagram (datagramOf 0x32 0x50 0 1) State.reset).readBytes 0x8000
        (withDatagram (datagramOf 0x32 0x50 0 1) State.reset).rxLen.toNat) =
        .accept [0xAA, 0xAA, 0xAA, 0xAA, 0xAA, 0xAA] 0x0001 true false) := by decide

theorem witness_DecodeWritesResultRegisters_tooLong : Config.rxCap < (tooLong State.reset).rxLen.toNat :=
  rxLen_tooLong State.reset

theorem witness_DecodeAlwaysFinishes :
    (pendingCommand 0x00000006 (withDatagram (datagramOf 0x32 0x50 0 1) State.reset)).engineTurn ∧
    (pendingCommand 0x00000006 (withDatagram (datagramOf 0x32 0x50 0 1) State.reset)).pending = 0x00000006 ∧
    (pendingCommand 0x00000006 (withDatagram (datagramOf 0x32 0x50 0 1) State.reset)).rxLen.toNat ≤ Config.rxCap :=
  ⟨⟨rfl, rfl⟩, rfl, by decide⟩

theorem witness_ReplyBuildsReply :
    ((0x00000107 : Word).extractLsb' 0 8 = (0x00000007 : Word).extractLsb' 0 8 ∧
      (0x00000107 : Word) &&& 0xFFFFFFFF ≠ 0x00000007) ∧
    State.reset.initd = false ∧ (fullBanner.initd = true ∧ fullBanner.bannerLen.toNat ≤ 100) ∧
    ({ ready with srcHw := true }.initd = true ∧ { ready with srcHw := true }.srcHw = true) := by decide

theorem witness_BuiltReplyVerifies : fullBanner.initd = true ∧ fullBanner.bannerLen.toNat ≤ 100 := by decide

theorem witness_PopulatedRegionHasSameChecksum : fullBanner.initd = true ∧ fullBanner.bannerLen.toNat ≤ 100 := by decide

theorem witness_ReplyIdIsIndependentOfMessage :
    ∃ t t', ready.initd = true ∧ { fullBanner with msgidHi := 7 }.initd = true ∧
      ready.prng = { fullBanner with msgidHi := 7 }.prng ∧ ready.srcHw = { fullBanner with msgidHi := 7 }.srcHw ∧
      ready.draws = { fullBanner with msgidHi := 7 }.draws ∧ exec .reply ready = .next t ∧
      exec .reply { fullBanner with msgidHi := 7 } = .next t' :=
  ⟨_, _, rfl, rfl, rfl, rfl, rfl, reply_completes _ rfl, reply_completes _ rfl⟩

theorem witness_ProcessDecodesThenReplies :
    ((0x00020008 : Word).extractLsb' 0 8 = (0x00000008 : Word).extractLsb' 0 8 ∧
      (0x00020008 : Word) &&& 0xFFFFFFFF ≠ 0x00000008) ∧
    State.reset.initd = false ∧
    (ready.initd = true ∧ ready.rxLen.toNat ≤ Config.rxCap ∧
      decodeDatagram (ready.readBytes 0x8000 ready.rxLen.toNat) = .discard .short) ∧
    ((withDatagram (datagramOf 0x32 0x50 0 0) ready).initd = true ∧
      (withDatagram (datagramOf 0x32 0x50 0 0) ready).rxLen.toNat ≤ Config.rxCap ∧
      decodeDatagram ((withDatagram (datagramOf 0x32 0x50 0 0) ready).readBytes 0x8000
        (withDatagram (datagramOf 0x32 0x50 0 0) ready).rxLen.toNat) =
        .accept [0xAA, 0xAA, 0xAA, 0xAA, 0xAA, 0xAA] 0x0000 false false) ∧
    ((withDatagram (datagramOf 0x32 0x50 0 1) ready).initd = true ∧
      (withDatagram (datagramOf 0x32 0x50 0 1) ready).rxLen.toNat ≤ Config.rxCap ∧
      decodeDatagram ((withDatagram (datagramOf 0x32 0x50 0 1) ready).readBytes 0x8000
        (withDatagram (datagramOf 0x32 0x50 0 1) ready).rxLen.toNat) =
        .accept [0xAA, 0xAA, 0xAA, 0xAA, 0xAA, 0xAA] 0x0001 true false) := by decide

theorem witness_ProcessDecodesThenReplies_tooLong :
    (tooLong ready).initd = true ∧ Config.rxCap < (tooLong ready).rxLen.toNat := ⟨rfl, rxLen_tooLong ready⟩

/-- The first 12 bytes of a reply, given back to the engine. -/
theorem witness_NoReplyToAReply :
    ∃ t u : State, ready.initd = true ∧ ready.bannerLen.toNat ≤ 100 ∧ exec .reply ready = .next t ∧ u.initd = true ∧
      u.rxLen.toNat ≤ 128 ∧ u.rxLen.toNat ≤ Config.rxCap ∧ u.rxLen.toNat = 12 ∧
      u.readBytes 0x8000 u.rxLen.toNat = t.readBytes 0x0100 u.rxLen.toNat := by
  have hl : ((replyEffect ready).finish.readBytes 0x100 12).length = 12 := length_readBytes _ _ _
  refine ⟨_, withDatagram ((replyEffect ready).finish.readBytes 0x100 12) ready, rfl, by decide,
    reply_completes _ rfl, rfl, ?_⟩
  have h12 : (withDatagram ((replyEffect ready).finish.readBytes 0x100 12) ready).rxLen.toNat = 12 := by
    simp [withDatagram]
  have h := readBytes_writeBytes ready 0x8000 ((replyEffect ready).finish.readBytes 0x100 12)
  rw [hl] at h
  rw [h12]
  refine ⟨by decide, rxCap_bounds.1, rfl, ?_⟩
  exact (readBytes_of_mem rfl rfl 0x8000 12).trans h

theorem witness_CmdWriteLatchesOrOverruns :
    State.reset.busy = false ∧ (pendingCommand 0 State.reset).busy = true := ⟨rfl, rfl⟩

theorem witness_WritableRegistersReadBack : State.reset.busy = false ∧ ready.busy = false := ⟨rfl, rfl⟩

theorem witness_ContractBreachesAreOnlyRecorded :
    ((0x0001 : Offset).toNat % 4 ≠ 0 ∧ (0xFFFF : Offset).toNat % 4 ≠ 0) ∧
    ((0x000C : Offset).toNat % 4 = 0 ∧ (pendingCommand 0 State.reset).busy = true ∧ (0x000C : Offset) ≠ 0x000 ∧
      (0x000C : Offset) ≠ 0x004 ∧ (0x000C : Offset) ≠ 0x008) := by decide

theorem witness_UnmappedOffsetsReadZero :
    State.reset.busy = false ∧ (0x0040 : Offset).toNat = 0x0040 ∧ (0x00FC : Offset).toNat ≤ 0x00FF ∧
    (0x0180 : Offset).toNat = 0x0180 ∧ (0x01FC : Offset).toNat ≤ 0x01FF ∧ (0x0264 : Offset).toNat = 0x0264 ∧
    (0x02FC : Offset).toNat ≤ 0x02FF ∧ (0x0340 : Offset).toNat = 0x0340 ∧ (0x0FFC : Offset).toNat ≤ 0x0FFF ∧
    (0x19C0 : Offset).toNat = 0x19C0 ∧ (0x7FFC : Offset).toNat ≤ 0x7FFF := by decide

/-- Where RX_CAP is not the whole upper half, the first offset after RXBUF is unmapped. -/
theorem witness_UnmappedOffsetsReadZero_afterRxbuf (h : Config.rxCap < 32768) :
    (BitVec.ofNat 16 (0x8000 + Config.rxCap) : Offset).toNat % 4 = 0 ∧
    0x8000 + Config.rxCap ≤ (BitVec.ofNat 16 (0x8000 + Config.rxCap) : Offset).toNat := by
  have := rxCap_bounds
  simp only [BitVec.toNat_ofNat]
  omega

theorem witness_WindowsPackBigEndian :
    (State.reset.busy = false ∧ ready.busy = false) ∧ State.reset.initd = false ∧ ready.initd = true ∧
    ((0x0200 : Offset).toNat % 4 = 0 ∧ 0x0200 ≤ (0x0200 : Offset).toNat) ∧
    ((0x0260 : Offset).toNat % 4 = 0 ∧ (0x0260 : Offset).toNat ≤ 0x0263) ∧
    ((0x8000 : Offset).toNat % 4 = 0 ∧ 0x8000 ≤ (0x8000 : Offset).toNat) ∧
    (0x8000 : Offset).toNat < 0x8000 + Config.rxCap := by
  refine ⟨by decide, by decide, by decide, by decide, by decide, by decide, ?_⟩
  have := rxCap_bounds
  show 0x8000 < _
  omega

/-- After INIT both windows still read. -/
theorem witness_WindowsPackBigEndian_afterInit : ready.busy = false ∧ ready.initd = true ∧
    (0x0204 : Offset).toNat % 4 = 0 ∧ (0x0200 ≤ (0x0204 : Offset).toNat ∧ (0x0204 : Offset).toNat ≤ 0x0263) := by decide

theorem witness_WindowsPackBigEndian_lastWord :
    (BitVec.ofNat 16 (0x8000 + Config.rxCap - 4) : Offset).toNat % 4 = 0 ∧
    0x8000 ≤ (BitVec.ofNat 16 (0x8000 + Config.rxCap - 4) : Offset).toNat ∧
    (BitVec.ofNat 16 (0x8000 + Config.rxCap - 4) : Offset).toNat < 0x8000 + Config.rxCap := by
  have := rxCap_bounds
  simp only [BitVec.toNat_ofNat]
  omega

theorem witness_ReadOnlyStateIgnoresWrites :
    State.reset.busy = false ∧
    ((0x0100 : Offset).toNat % 4 = 0 ∧ (0x017C : Offset).toNat % 4 = 0 ∧ (0x017C : Offset).toNat ≤ 0x017F) ∧
    ((0x0300 : Offset).toNat % 4 = 0 ∧ (0x033C : Offset).toNat % 4 = 0 ∧ (0x033C : Offset).toNat ≤ 0x033F) ∧
    ((0x1000 : Offset).toNat = 0x1000 + 4 * 0 ∧ (0x19BC : Offset).toNat = 0x1000 + 4 * 623) ∧
    ((0x010 : Offset) ∈ ([0x010, 0x01C, 0x024, 0x028, 0x02C, 0x030, 0x034] : List Offset)) := by decide

theorem witness_BusyReadsOfCommandStateAreDraws :
    (pendingCommand 0 State.reset).busy = true ∧
    ((0x004 : Offset).toNat % 4 = 0 ∧ (0x020 : Offset).toNat % 4 = 0 ∧
      (0x004 : Offset) ∈ ([0x004, 0x008, 0x00C, 0x010, 0x014, 0x018, 0x020] : List Offset) ∧
      (0x020 : Offset) ∈ ([0x004, 0x008, 0x00C, 0x010, 0x014, 0x018, 0x020] : List Offset)) ∧
    (0x000 : Offset).toNat % 4 = 0 ∧
    ((0x0200 : Offset).toNat % 4 = 0 ∧ 0x0200 ≤ (0x0200 : Offset).toNat ∧ (0x0260 : Offset).toNat ≤ 0x0263) ∧
    ((0x01C : Offset).toNat % 4 = 0 ∧
      (0x01C : Offset) ∉ ([0x000, 0x004, 0x008, 0x00C, 0x010, 0x014, 0x018, 0x020] : List Offset) ∧
      ¬ (0x0200 ≤ (0x01C : Offset).toNat ∧ (0x01C : Offset).toNat ≤ 0x0263) ∧
      ¬ (0x8000 ≤ (0x01C : Offset).toNat ∧ (0x01C : Offset).toNat < 0x8000 + Config.rxCap)) := by decide

theorem witness_BusyReadsOfCommandStateAreDraws_rxbuf :
    (pendingCommand 0 State.reset).busy = true ∧ (0x8000 : Offset).toNat % 4 = 0 ∧ 0x8000 ≤ (0x8000 : Offset).toNat ∧
    (0x8000 : Offset).toNat < 0x8000 + Config.rxCap := by
  refine ⟨rfl, by decide, by decide, ?_⟩
  have := rxCap_bounds
  show 0x8000 < _
  omega

/-- A host at the first statement of a program. -/
def hostAt (p : HostStmt) : State := { State.reset with host := ⟨[p], 0, 0⟩ }

theorem witness_HostStatementsActAsStated :
    ((hostAt (.wr 0x020 5)).host.prog[(hostAt (.wr 0x020 5)).host.pos]? = some (.wr 0x020 5)) ∧
    ((hostAt (.rd 0x004)).host.prog[(hostAt (.rd 0x004)).host.pos]? = some (.rd 0x004) ∧
      hostRead 0x004 (hostAt (.rd 0x004)) = (some 0, hostAt (.rd 0x004))) ∧
    ((hostAt (.jf 0x004 1 1 0)).host.prog[(hostAt (.jf 0x004 1 1 0)).host.pos]? = some (.jf 0x004 1 1 0) ∧
      hostRead 0x004 (hostAt (.jf 0x004 1 1 0)) = (some 0, hostAt (.jf 0x004 1 1 0))) ∧
    ((hostAt (.j 3)).host.prog[(hostAt (.j 3)).host.pos]? = some (.j 3)) ∧
    ((hostAt .halt).host.prog[(hostAt .halt).host.pos]? = some .halt) := ⟨rfl, ⟨rfl, rfl⟩, ⟨rfl, rfl⟩, rfl, rfl⟩

/-- The step of a state whose move is the host's. -/
theorem witness_ConfigurationIsFrozenAfterInit :
    ∃ t, nextMove ready ≠ .reset ∧ ready.initd = true ∧ step ready = .next t := ⟨_, by decide, rfl, rfl⟩

theorem witness_ConfigurationIsFrozenAfterInit_latches :
    ∃ t, nextMove (pendingCommand 1 State.reset) ≠ .reset ∧ step (pendingCommand 1 State.reset) = .next t ∧
      t.initd ≠ (pendingCommand 1 State.reset).initd := ⟨_, by decide, rfl, by decide⟩

theorem witness_SeededIsSetBySeedingOnly :
    ∃ t, nextMove (pendingCommand 3 State.reset) ≠ .reset ∧ step (pendingCommand 3 State.reset) = .next t ∧
      (pendingCommand 3 State.reset).prng.seeded = false ∧ t.prng.seeded = true := ⟨_, by decide, rfl, rfl, rfl⟩

theorem witness_RecordedFaultsStay :
    ∃ t, nextMove (hostAt (.rd 0x001)) ≠ .reset ∧ step (hostAt (.rd 0x001)) = .next t := ⟨_, by decide, rfl⟩

/-- A step that is no reset and after which the two states differ as said. -/
def changesBy (differs : State → State → Prop) (s : State) : Prop :=
  ∃ t, nextMove s ≠ .reset ∧ step s = .next t ∧ differs s t

theorem witness_EachResultHasItsWriter_registers :
    changesBy (fun s t => t.ckResult ≠ s.ckResult) (pendingCommand 0x00000002 State.reset) ∧
    changesBy (fun s t => t.rndLen ≠ s.rndLen) (pendingCommand 0x00000005 { ready with rndLen := 1 }) ∧
    changesBy (fun s t => t.decResult ≠ s.decResult) (pendingCommand 0x00000006 State.reset) ∧
    changesBy (fun s t => t.decFlags ≠ s.decFlags ∧ t.msgidHi ≠ s.msgidHi ∧ t.msgidLo ≠ s.msgidLo)
      (pendingCommand 0x00000006 (withDatagram (datagramOf 0x32 0x50 0x00 0x01) State.reset)) ∧
    changesBy (fun s t => t.msgidHi ≠ s.msgidHi) (hostAt (.wr 0x038 5)) ∧
    changesBy (fun s t => t.msgidLo ≠ s.msgidLo) (hostAt (.wr 0x03C 5)) :=
  ⟨⟨_, by decide, rfl, by decide⟩, ⟨_, by decide, rfl, by decide⟩, ⟨_, by decide, rfl, by decide⟩,
    ⟨_, by decide, rfl, by decide⟩, ⟨_, by decide, rfl, by decide⟩, ⟨_, by decide, rfl, by decide⟩⟩

theorem witness_EachResultHasItsWriter_generator :
    changesBy (fun s t => t.prng ≠ s.prng) (pendingCommand 0x00000003 State.reset) ∧
    changesBy (fun s t => t.mtOut ≠ s.mtOut) (pendingCommand 0x00000004 { State.reset with prng := twisted }) :=
  ⟨⟨_, by decide, rfl, fun h => Bool.noConfusion (congrArg Prng.seeded h)⟩, ⟨_, by decide, rfl, by decide +kernel⟩⟩

/-- A byte of the buffer that reads differently: the buffer is not the same. -/
theorem not_sameBuffer {b : Buffer} {s t : State} (a : Nat) (h : b.contains a = true) (hne : t.readByte a ≠ s.readByte a) :
    ¬ sameBuffer b s t := fun hb => hne (hb a h)

/-- The first offset of RXBUF lies in it, whatever RX_CAP is. -/
theorem rxbuf_contains_base : Buffer.rxbuf.contains 0x8000 = true := by
  have := rxCap_bounds
  rw [contains_iff]
  show 0x8000 ≤ 0x8000 ∧ 0x8000 < 0x8000 + Config.rxCap
  omega

/-- The first word of RXBUF, written by a host step, holds the byte written. -/
theorem rxbuf_written (s : State) (hp : s.host.prog[s.host.pos]? = some (.wr 0x8000 0)) (hb : s.busy = false) :
    (hostStep s).readByte 0x8000 = 0 := by
  have hl : locate 0x8000 = .buffer .rxbuf := by
    rw [locate_of_high (by decide)]
    simp only [rxbuf_contains_base, show ((0x8000 : Offset).toNat) = 0x8000 from rfl]
    simp [contains_iff, Buffer.base, Buffer.size, txSize, bannerCap, rndCap]
  have h : hostWrite 0x8000 0 s = s.writeWord 0x8000 0 := by
    simp only [hostWrite, writeRegion, hl, show misaligned 0x8000 = false from rfl, hb]
    rfl
  simp only [hostStep, hp, h]
  exact readByte_writeBytes_inside (i := 0) s (by decide)

theorem witness_EachResultHasItsWriter_buffers :
    changesBy (fun s t => ¬ sameBuffer .rndbuf s t) (pendingCommand 0x00000005 (ready.writeBytes 0x300 [1])) ∧
    changesBy (fun s t => ¬ sameBuffer .txbuf s t)
      (pendingCommand 0x00000007 (({ ready with prng := twisted } : State).writeBytes 0x100 [1])) ∧
    changesBy (fun s t => ¬ sameBuffer .banner s t) ((hostAt (.wr 0x200 0)).writeBytes 0x200 [1]) ∧
    changesBy (fun s t => ¬ sameBuffer .rxbuf s t) ((hostAt (.wr 0x8000 0)).writeBytes 0x8000 [1]) := by
  refine ⟨⟨_, by decide, rfl, not_sameBuffer 0x300 (by decide) (by decide)⟩,
    ⟨_, by decide, rfl, not_sameBuffer 0x100 (by decide) (by decide +kernel)⟩,
    ⟨_, by decide, rfl, not_sameBuffer 0x200 (by decide) (by decide)⟩,
    ⟨_, by decide, rfl, not_sameBuffer 0x8000 rxbuf_contains_base ?_⟩⟩
  rw [rxbuf_written _ rfl rfl]
  decide

theorem witness_ResetReleaseRestoresResetValues : nextMove { ready with sched := [.reset] } = .reset := rfl

theorem witness_EveryStepKeepsInvariant :
    ∃ t, State.Inv { ready with done := true, bannerLen := 100 } ∧
      step { ready with done := true, bannerLen := 100 } = .next t := by
  refine ⟨_, ?_, rfl⟩
  constructor <;> simp [ready, State.reset, State.atReset, Prng.atReset, Memory.wf]

theorem witness_PseudoStatementsExpand :
    65535 < 65536 ∧ 0 % 4 = 0 ∧ 4 * 1 < ([0x32, 0x50, 0x4D, 0x41, 0x58] : List Byte).length ∧
    0x8000 + 0x7FF8 + 4 * 1 < 65536 ∧
    ((hostAt (.jf 0x004 1 1 0)).host.prog[(hostAt (.jf 0x004 1 1 0)).host.pos]? =
      some (.jf 0x004 0x1 0x1 (hostAt (.jf 0x004 1 1 0)).host.pos)) := by decide

/-- The group after the last offset. -/
theorem witness_LoadbOffsetsWrap :
    0x7FFC % 4 = 0 ∧ 4 * 1 < ([0x32, 0x50, 0x4D, 0x41, 0x58] : List Byte).length ∧
    (0x8000 + 0x7FFC + 4 * 1) % 65536 = 0 := by decide

end Sys2Proof.Tests
end

section
/-!
PROOFS. The checksum accumulator: its bound over every buffer, the length that reaches it, and what two folds leave of it
(00_scope R7, 40_checksum R131).
-/
namespace Sys2Proof.Machine

/-- The first fold leaves at most 0x1FFFE, so the second adds a carry of at most 1, and a carry of 1 comes with low bits
of at most 0xFFFE (40_checksum R131). -/
theorem fold_fold_le {acc : Nat} (h : acc < 2 ^ 32) : fold (fold acc) ≤ 0xFFFF := by
  have once : fold acc ≤ 0x1FFFE := by rw [fold_eq]; omega
  rw [fold_eq (fold acc)]
  omega

theorem wordSum_le_of_length_le {B : List Byte} (h : B.length ≤ 32768) : wordSum B ≤ 0x3FFFC000 :=
  calc wordSum B
    _ ≤ 65535 * ((B.length + 1) / 2) := wordSum_le B
    _ ≤ 0x3FFFC000 := by omega

/-- Every word of 0xFF bytes adds 0xFFFF: at 32768 bytes the sum is the bound of `wordSum_le_of_length_le`. -/
theorem wordSum_replicate_ff (n : Nat) : wordSum (List.replicate (2 * n) 0xFF) = n * 0xFFFF := by
  induction n with
  | zero => rfl
  | succ n ih =>
    rw [Nat.mul_succ, List.replicate_succ, List.replicate_succ, wordSum, ih,
      show (0xFF : Byte).toNat = 0xFF from rfl]
    omega

theorem Buffer.size_le (b : Buffer) : b.size ≤ 32768 := by
  cases b with
  | rxbuf => exact rxCap_bounds.2.1
  | txbuf | banner | rndbuf => decide

/-- Settles O14: `wordSum_le` bounds the accumulator by 0xFFFF per word, of which a buffer holds at most 16384; that is
below 2^32, where two folds are enough. -/
theorem twoFoldsFitSixteenBits : Obligations.TwoFoldsFitSixteenBits := by
  refine ⟨fun B hB => ?_, Buffer.size_le, wordSum_replicate_ff⟩
  have bound : wordSum B ≤ 0x3FFFC000 := wordSum_le_of_length_le hB
  have below : wordSum B < 2 ^ 32 := by omega
  exact ⟨bound, Nat.mod_eq_of_lt below, fold_fold_le below⟩

end Sys2Proof.Machine
end

section
/-!
PROOFS. The bits of STATUS and IRQ_EN that make up `irq`, as a read of the two registers gives them (10_state R25, R26,
R48).
-/
namespace Sys2Proof.Machine

/- Each bit is located in the concatenation first: a plain `simp` rewrites the widths of the parts before it, and then the
lemmas about `++` no longer match. -/

@[simp] theorem statusWord_done (s : State) : s.statusWord[1] = s.done := by
  simp only [State.statusWord, BitVec.getElem_setWidth, BitVec.getLsbD_append]
  simp

@[simp] theorem statusWord_err (s : State) : s.statusWord[2] = s.err := by
  simp only [State.statusWord, BitVec.getElem_setWidth, BitVec.getLsbD_append]
  simp

@[simp] theorem irqEnWord_doneIe (s : State) : s.irqEnWord[0] = s.doneIe := by
  simp only [State.irqEnWord, BitVec.getElem_setWidth, BitVec.getLsbD_append]
  simp

@[simp] theorem irqEnWord_errIe (s : State) : s.irqEnWord[1] = s.errIe := by
  simp only [State.irqEnWord, BitVec.getElem_setWidth, BitVec.getLsbD_append]
  simp

/-- Settles O39: with each of the four bits read as its field (`statusWord_done`, `statusWord_err`, `irqEnWord_doneIe`,
`irqEnWord_errIe`), the right side is the definition of `irq`. -/
theorem irqIsLevelOfEnabledBits : Obligations.IrqIsLevelOfEnabledBits := by
  intro s
  simp [readReg, State.irq]

end Sys2Proof.Machine
end

section
/-!
PROOFS. The command word: the row a word matches is the only one, and it gives the command (30_encoding R92, R96); a word
that matches none ends in ILLEGAL_CMD (R94).
-/
namespace Sys2Proof

theorem matches_eq_false_iff {r : EncodingRow} {w : Word} : r.matches w = false ↔ w &&& r.mask ≠ r.pattern := by
  rw [← Bool.not_eq_true, matches_iff]

/-- Two rows that match one word both have its OP (30_encoding R92). -/
theorem opField_pattern_eq_of_matches {r r' : EncodingRow} (hr : r ∈ encodingRows) (hr' : r' ∈ encodingRows) {w : Word}
    (h : r.matches w = true) (h' : r'.matches w = true) : opField r.pattern = opField r'.pattern :=
  (opField_of_matches hr h).symm.trans (opField_of_matches hr' h')

/-- The rows differ in OP, so no two of them match one word (30_encoding R92). -/
theorem length_filter_matches_le_one (w : Word) : (encodingRows.filter (·.matches w)).length ≤ 1 := by
  have hdistinct := opFields_distinct.filter (·.matches w)
  have hmatch : ∀ r ∈ encodingRows.filter (·.matches w), r ∈ encodingRows ∧ r.matches w = true :=
    fun r hr => List.mem_filter.mp hr
  generalize encodingRows.filter (·.matches w) = rows at hdistinct hmatch ⊢
  rcases rows with _ | ⟨r, _ | ⟨r', rest⟩⟩
  · simp
  · simp
  · obtain ⟨hr, hw⟩ := hmatch r (by simp)
    obtain ⟨hr', hw'⟩ := hmatch r' (by simp)
    have hne : opField r.pattern ≠ opField r'.pattern := List.rel_of_pairwise_cons hdistinct (by simp)
    exact absurd (opField_pattern_eq_of_matches hr hr' hw hw') hne

/-- Under a mask of all ones a row matches its pattern only. -/
theorem eq_of_fullMask {w p : Word} (h : w &&& 0xFFFFFFFF = p) : w = p :=
  (BitVec.and_allOnes (x := w)).symm.trans h

/-- No row has an OP above 0x08 (30_encoding R91), so a word with one matches none. -/
theorem matches_eq_false_of_reservedOp {w : Word} (hw : 0x09 ≤ w.toNat % 256) {r : EncodingRow} (hr : r ∈ encodingRows) :
    r.matches w = false := by
  have hrow : ∀ r ∈ encodingRows, (opField r.pattern).toNat ≤ 8 := by decide
  have hop : (opField w).toNat = w.toNat % 256 := by simp [opField, BitVec.extractLsb'_toNat]
  refine matches_eq_false hr fun heq => ?_
  have hle := hrow r hr
  rw [← heq, hop] at hle
  omega

/-- Settles O4. A full mask leaves the word itself to decode; the two rows with free fields are `decodeWord_of_cksumRow`
and `decodeWord_of_randRow`; at most one row matches because the OPs differ. -/
theorem matchAndMaskSelectCommand : Obligations.MatchAndMaskSelectCommand := by
  refine ⟨by decide, by decide, fun w => ⟨?nop, ?init, ?cksum, ?seed, ?next, ?rand, ?decode, ?reply, ?process,
    ?noRow, ?oneRow⟩⟩
  case cksum => exact fun h => lenField_eq w ▸ decodeWord_of_cksumRow (matches_iff.mpr h)
  case rand => exact fun h => lenField_eq w ▸ decodeWord_of_randRow (matches_iff.mpr h)
  case noRow => exact fun h => illegal_of_no_row fun r hr => matches_eq_false_iff.mpr (h r hr)
  case oneRow => simpa only [← matches_iff, Bool.decide_eq_true] using length_filter_matches_le_one w
  all_goals
    intro h
    rw [eq_of_fullMask h]
    rfl

end Sys2Proof

namespace Sys2Proof.Machine

/-- The engine step of a word that is no command (30_encoding R94). -/
theorem engineStep_of_illegal {s : State} (hbusy : s.busy = true) (h : illegal s.pending) :
    engineStep s = .next (s.raiseError .illegalCmd) := by
  obtain ⟨e, he⟩ := illegal_iff.mp h
  simp [engineStep, hbusy, he]

/-- Settles O5: such a word is illegal, and at the engine's turn the step is `engineStep` without the move; the error is
`raiseError`, whose record update is the statement's. -/
theorem illegalWordOnlyReportsError : Obligations.IllegalWordOnlyReportsError := by
  constructor
  · intro s ⟨hbusy, hmove⟩ hrows
    have hill : illegal s.pending := illegal_of_no_row fun r hr => matches_eq_false_iff.mpr (hrows r hr)
    calc step s
      _ = engineStep (popMove s) := by rw [step, hmove, moveStep]
      _ = .next ((popMove s).raiseError .illegalCmd) := engineStep_of_illegal hbusy hill
  · exact fun w hw r hr => matches_eq_false_iff.mp (matches_eq_false_of_reservedOp hw hr)

/-- Settles O1. The worked words decode by evaluation; 0x00010000 has the OP of NOP and does not match its row. -/
theorem workedEncodingsDecode : Obligations.WorkedEncodingsDecode := by
  have hill : illegal 0x00010000 := illegal_of_own_row (r := nopRow) (by decide) rfl rfl
  exact ⟨rfl, rfl, rfl, rfl, rfl, rfl, rfl, fun s hbusy hpending => engineStep_of_illegal hbusy (hpending ▸ hill)⟩

end Sys2Proof.Machine
end

section
/-!
PROOFS. A reply given back to the engine (30_encoding R102, R106): the bytes of a built reply, field by field, and what
decoding them, or the first of them, gives.
-/
namespace Sys2Proof.Machine

/-! ### The built reply is the reply of 30_encoding R102 -/

theorem unsignedReply_eq {fresh id banner : List Byte} (hf : fresh.length = 6) (hi : id.length = 6)
    (hb : banner.length ≤ 100) : unsignedReply fresh id banner = zeroChecksumReply fresh id banner := by
  refine List.take_of_length_le ?_
  simp [hf, hi, bannerCap, txSize]
  omega

/-- Step 7 of 43_encoder R210 fills the checksum field and nothing else. -/
theorem signReply_eq (fresh id banner : List Byte) :
    signReply (zeroChecksumReply fresh id banner) = checksummedReply fresh id banner := rfl

/-- The zero-field view undoes it (40_checksum R134). -/
theorem zeroField_checksummedReply (fresh id banner : List Byte) :
    zeroField (checksummedReply fresh id banner) = zeroChecksumReply fresh id banner := rfl

/-- TXBUF after a build, field by field. -/
theorem readBytes_buildReply_eq {s : State} (hb : s.bannerLen.toNat ≤ 100) :
    (buildReply s).readBytes 0x100 128 = checksummedReply (randomBytes 6 s).1 (messageId s) (bannerBytes s) := by
  rw [readBytes_buildReply, unsignedReply_eq (by simp) (by simp) (by simpa using hb), signReply_eq]

theorem length_checksummedReply {fresh id banner : List Byte} (hf : fresh.length = 6) (hi : id.length = 6)
    (hb : banner.length ≤ 100) : (checksummedReply fresh id banner).length = 128 := by
  rw [← signReply_eq, ← unsignedReply_eq hf hi hb, length_signReply, length_unsignedReply hf hi]

/-- The header region of a reply (30_encoding R100): its magic, checksum, fresh id and flags stand first. -/
theorem checksummedReply_header (fresh id banner : List Byte) :
    ∃ rest, checksummedReply fresh id banner =
      bytesBE16 magic ++ bytesBE16 (cksum (zeroChecksumReply fresh id banner)) ++ fresh ++ bytesBE16 replyFlags ++ rest :=
  ⟨_, by simp only [checksummedReply, List.append_assoc]; rfl⟩

theorem be16_checksummedReply_magic (fresh id banner : List Byte) :
    be16 (checksummedReply fresh id banner) 0 = magic := by
  obtain ⟨rest, h⟩ := checksummedReply_header fresh id banner
  simpa [h] using be16_bytesBE16 [] magic
    (bytesBE16 (cksum (zeroChecksumReply fresh id banner)) ++ fresh ++ bytesBE16 replyFlags ++ rest)

theorem be16_checksummedReply_checksum (fresh id banner : List Byte) :
    be16 (checksummedReply fresh id banner) 2 = cksum (zeroChecksumReply fresh id banner) := by
  obtain ⟨rest, h⟩ := checksummedReply_header fresh id banner
  simpa [h] using be16_bytesBE16 (bytesBE16 magic) (cksum (zeroChecksumReply fresh id banner))
    (fresh ++ bytesBE16 replyFlags ++ rest)

theorem be16_checksummedReply_flags {fresh : List Byte} (hf : fresh.length = 6) (id banner : List Byte) :
    be16 (checksummedReply fresh id banner) 10 = replyFlags := by
  obtain ⟨rest, h⟩ := checksummedReply_header fresh id banner
  simpa [h, hf] using
    be16_bytesBE16 (bytesBE16 magic ++ bytesBE16 (cksum (zeroChecksumReply fresh id banner)) ++ fresh) replyFlags rest

/-! ### Decoding -/

/-- A checksum is never 0 (40_checksum R132), so a filled checksum field is always checked (42_decoder R191). -/
theorem cksum_ne_zero (B : List Byte) : cksum B ≠ 0 := by
  intro h
  have hn := toNat_cksum B
  rw [h] at hn
  split at hn <;> simp_all

/-- A datagram with the magic and its own checksum is accepted (42_decoder R191). -/
theorem decodeDatagram_of_checksummed {D : List Byte} (hlen : 12 ≤ D.length) (hmagic : be16 D 0 = magic)
    (hck : be16 D 2 = cksum (zeroField D)) :
    decodeDatagram D = .accept (slice D 4 10) (be16 D 10) ((be16 D 10).getLsbD 0) true := by
  have hne : be16 D 2 ≠ 0#16 := hck ▸ cksum_ne_zero _
  simp [decodeDatagram, headerLength, Nat.not_lt.mpr hlen, hmagic, ← hck, hne]

/-- An accepted datagram has a whole header, and its flags are bytes 10 and 11 (42_decoder R191). -/
theorem flags_of_accept {D id : List Byte} {flags : Half} {rr ckp : Bool}
    (h : decodeDatagram D = .accept id flags rr ckp) :
    12 ≤ D.length ∧ flags = be16 D 10 ∧ rr = (be16 D 10).getLsbD 0 := by
  simp only [decodeDatagram] at h
  split_ifs at h with hlen hmagic
  injection h with _ hflags hrr _
  exact ⟨Nat.not_lt.mp hlen, hflags.symm, hrr.symm⟩

theorem be16_take {B : List Byte} {i n : Nat} (h : i + 1 < n) : be16 (B.take n) i = be16 B i := by
  simp [be16, byteAt, List.getD_eq_getElem?_getD, h, Nat.lt_of_succ_lt h]

/-- Bit 0 of 0x8002 is 0: no part of a reply asks for a reply (30_encoding R106). -/
theorem no_request_in_reply {fresh id banner : List Byte} (hf : fresh.length = 6) (n : Nat)
    {id' : List Byte} {flags : Half} {rr ckp : Bool}
    (h : decodeDatagram ((checksummedReply fresh id banner).take n) = .accept id' flags rr ckp) : rr = false := by
  obtain ⟨hlen, -, hrr⟩ := flags_of_accept h
  have hn : 10 + 1 < n := by rw [List.length_take] at hlen; omega
  rw [hrr, be16_take hn, be16_checksummedReply_flags hf]
  rfl

/-- The whole reply is accepted (30_encoding R106). -/
theorem decodeDatagram_checksummedReply {fresh id banner : List Byte} (hf : fresh.length = 6) (hi : id.length = 6)
    (hb : banner.length ≤ 100) :
    ∃ id', decodeDatagram (checksummedReply fresh id banner) = .accept id' replyFlags false true := by
  have h := decodeDatagram_of_checksummed (D := checksummedReply fresh id banner)
    (by rw [length_checksummedReply hf hi hb]; decide) (be16_checksummedReply_magic ..)
    (be16_checksummedReply_checksum ..)
  rw [be16_checksummedReply_flags hf] at h
  exact ⟨_, h⟩

/-! ### PROCESS -/

theorem take_readBytes (s : State) (a : Nat) {n k : Nat} (h : n ≤ k) :
    (s.readBytes a k).take n = s.readBytes a n := by
  simp [State.readBytes, ← List.map_take, List.take_range, h]

/-- PROCESS of a datagram that asks for no reply is DECODE with TXV cleared (43_encoder R221). -/
theorem exec_process_of_no_request {s : State} (hinit : s.initd = true) (hlen : s.rxLen.toNat ≤ Config.rxCap)
    (hno : ∀ id flags ckp, decodeDatagram (datagram s) ≠ .accept id flags true ckp) :
    exec .process s = .next { decodeEffect s with txv := false }.finish := by
  have hpass : firstFailure (checksOf .process s) = none := by simp [checksOf, rxLenTooLong, hinit, hlen]
  rw [exec_eq, runCommand_of_pass _ _ hpass]
  rcases processEffect_cases s with ⟨id, flags, ckp, hd, -⟩ | ⟨-, h⟩
  · exact absurd hd (hno id flags ckp)
  · exact congrArg (fun t => Host.Outcome.next t.finish) h

/-- TXBUF after REPLY (43_encoder R213). -/
theorem readBytes_of_exec_reply {s t : State} (hinit : s.initd = true) (hb : s.bannerLen.toNat ≤ 100)
    (h : exec .reply s = .next t) :
    t.readBytes 0x100 128 = checksummedReply (randomBytes 6 s).1 (messageId s) (bannerBytes s) := by
  have hexec : exec .reply s = .next (replyEffect s).finish := by
    rw [exec_eq, runCommand_of_pass _ _ (by simp [checksOf, hinit]), effectOf]
  rw [← Host.Outcome.next.inj (hexec.symm.trans h), ← readBytes_buildReply_eq hb]
  exact readBytes_of_mem (s := buildReply s) (by rw [finish_mem, replyEffect]) (by rw [finish_resets, replyEffect]) _ _

/-- Settles O37: what `u` holds is the first bytes of a reply, which never ask for a reply (`no_request_in_reply`), so
PROCESS only decodes them; the whole reply decodes to an accept (`decodeDatagram_checksummedReply`). -/
theorem noReplyToAReply : Obligations.NoReplyToAReply := by
  intro s t u hs hbanner ht hu h128 hcap hgiven
  have hf : (randomBytes 6 s).1.length = 6 := length_randomBytes 6 s
  have hb : (bannerBytes s).length ≤ 100 := by simpa using hbanner
  have hdatagram : datagram u =
      (checksummedReply (randomBytes 6 s).1 (messageId s) (bannerBytes s)).take u.rxLen.toNat := by
    rw [← readBytes_of_exec_reply hs hbanner ht, take_readBytes _ _ h128]
    exact hgiven
  have hprocess : exec .process u = .next { decodeEffect u with txv := false }.finish := by
    refine exec_process_of_no_request hu hcap fun id flags ckp haccept => ?_
    rw [hdatagram] at haccept
    exact Bool.noConfusion (no_request_in_reply hf _ haccept)
  obtain ⟨r, f, hi, lo, hframe⟩ := applyDecoded_frame (decodeDatagram (datagram u)) u
  refine ⟨_, hprocess, rfl, ?mem, ?prng, ?draws, fun hwhole => ?whole⟩
  case whole =>
    obtain ⟨id, haccept⟩ := decodeDatagram_checksummedReply hf (length_messageId s) hb
    rw [List.take_of_length_le (by rw [length_checksummedReply hf (length_messageId s) hb, hwhole]; rfl)] at hdatagram
    simp [decodeEffect, hdatagram, haccept, applyDecoded, replyFlags]
  all_goals simp [decodeEffect, hframe]

end Sys2Proof.Machine
end

section
/-!
PROOFS. The pseudo-statements of a host program (30_encoding R98): the word of a command with operands, WAIT and CLR as
host moves, and the groups of LOADB.
-/
namespace Sys2Proof.Machine

/-! ### Commands with operands -/

/-- The word of a command is the sum of its fields at their places (30_encoding R90). -/
theorem cmd32_eq_ofNat (op : Byte) (sel zf : Bool) {n : Nat} (hn : n < 65536) :
    cmd32 op sel zf n = BitVec.ofNat 32 (n * 65536 + (zf.toNat * 512 + sel.toNat * 256 + op.toNat)) := by
  have hop := op.isLt
  have hs := Bool.toNat_lt sel
  have hz := Bool.toNat_lt zf
  apply BitVec.eq_of_toNat_eq
  rw [toNat_cmd32, BitVec.toNat_ofNat, Nat.mod_eq_of_lt hn]
  omega

theorem expand_command {i : Instr} (h : i.wellFormed = true) (position : Nat → Option Nat) (pos : Nat) :
    AsmLine.expand position pos (.command i) = some [.wr 0x000 (encode i)] := by
  simp [AsmLine.expand, h, Reg.offset]

theorem expand_cksum (position : Nat → Option Nat) (pos : Nat) (sel : Sel) (zf : Bool) {n : Nat} (hn : n < 65536) :
    AsmLine.expand position pos (.command (.cksum sel zf n)) =
      some [.wr 0x000 (BitVec.ofNat 32 (n * 65536 + (zf.toNat * 512 + sel.bit.toNat * 256 + 0x002)))] := by
  rw [expand_command (by simpa [Instr.wellFormed, lenFits] using hn), encode, cmd32_eq_ofNat _ _ _ hn]
  rfl

theorem expand_rand (position : Nat → Option Nat) (pos : Nat) {n : Nat} (hn : n < 65536) :
    AsmLine.expand position pos (.command (.rand n)) =
      some [.wr 0x000 (BitVec.ofNat 32 (n * 65536 + 0x005))] := by
  rw [expand_command (by simpa [Instr.wellFormed, lenFits] using hn), encode, cmd32_eq_ofNat _ _ _ hn]
  rfl

/-! ### WAIT and CLR -/

@[simp] theorem statusWord_busy (s : State) : s.statusWord[0] = s.busy := by
  simp only [State.statusWord, BitVec.getElem_setWidth, BitVec.getLsbD_append]
  simp

/-- The mask 1 leaves bit 0. -/
theorem and_one_eq_one_iff (w : Word) : w &&& 0x1 = 0x1 ↔ w[0] = true := by
  rw [← BitVec.toNat_inj, BitVec.toNat_and, BitVec.getElem_eq_testBit_toNat, Nat.testBit_zero,
    show (0x1 : Word).toNat = 1 from rfl, Nat.and_one_is_mod, decide_eq_true_eq]

/-- STATUS reads as it is, also while a command runs (70 R306), so WAIT sees BUSY. -/
theorem hostStep_wait {s : State} (h : s.host.prog[s.host.pos]? = some (.jf 0x004 0x1 0x1 s.host.pos)) :
    (hostStep s).host.pos = if s.busy then s.host.pos else s.host.pos + 1 := by
  have hread : hostRead 0x004 s = (some s.statusWord, s) := by
    exact (hostRead_offset .status s).trans (by simp [regSettled, readReg])
  simp only [hostStep, h, hread, hostGoto_host, hostTake_host, Option.getD_some, and_one_eq_one_iff, statusWord_busy]

/-- CLR may be written while a command runs (70 R305); its bits 1, 2 and 5 are DONE, ERR and TXV (10_state R25). -/
theorem hostWrite_clr (s : State) :
    hostWrite 0x004 0x00000026 s = { s with done := false, txv := false, err := false, errcode := .none } :=
  calc hostWrite Reg.status.offset 0x00000026 s
    _ = s.acknowledge 0x00000026 := by rw [hostWrite_offset]; simp [writableWhileBusy, writeReg]
    _ = _ := by simp [State.acknowledge]

/-! ### LOADB -/

theorem length_loadWords (a : Nat) (ws : List Word) : (loadWords a ws).length = ws.length := by
  induction ws generalizing a with
  | nil => rfl
  | cons w ws ih => simp [loadWords, ih]

/-- Word `j` is written `4 * j` bytes on. -/
theorem getElem?_loadWords (a : Nat) (ws : List Word) (j : Nat) :
    (loadWords a ws)[j]? = ws[j]?.map fun w => .wr (BitVec.ofNat 16 (a + 4 * j)) w := by
  induction ws generalizing a j with
  | nil => rfl
  | cons w ws ih =>
    cases j with
    | zero => rfl
    | succ j => simp [loadWords, ih, Nat.mul_succ, Nat.add_assoc, Nat.add_comm 4]

/-- What is no whole group has at most 3 bytes. -/
theorem length_lt_four_of_no_group {short : List Byte}
    (h : ∀ b0 b1 b2 b3 rest, short = b0 :: b1 :: b2 :: b3 :: rest → False) : short.length < 4 := by
  match short with
  | [] | [_] | [_, _] | [_, _, _] => simp
  | b0 :: b1 :: b2 :: b3 :: rest => exact (h b0 b1 b2 b3 rest rfl).elim

theorem length_groupWords (bytes : List Byte) : (groupWords bytes).length = (bytes.length + 3) / 4 := by
  fun_induction groupWords bytes with
  | case1 => rfl
  | case2 b0 b1 b2 b3 rest ih => simp [ih]; omega
  | case3 short hne hshort =>
    have hlt := length_lt_four_of_no_group hshort
    have hpos := List.length_pos_iff.mpr hne
    simp
    omega

/-- Group `j` starts at byte `4 * j`. -/
theorem getElem?_groupWords {bytes : List Byte} {j : Nat} (hj : 4 * j < bytes.length) :
    (groupWords bytes)[j]? = some (be32 (bytes.drop (4 * j)) 0) := by
  fun_induction groupWords bytes generalizing j with
  | case1 => simp at hj
  | case2 b0 b1 b2 b3 rest ih =>
    cases j with
    | zero => rfl
    | succ j => exact ih (by simp at hj; omega)
  | case3 short hne hshort =>
    obtain rfl : j = 0 := by
      have hlt := length_lt_four_of_no_group hshort
      omega
    rfl

/-- A missing byte reads as 0x00, so padding a short group changes nothing. -/
theorem be32_append_zeros (B : List Byte) (k : Nat) : be32 (B ++ List.replicate k 0) 0 = be32 B 0 := by
  have h : ∀ i, byteAt (B ++ List.replicate k 0) i = byteAt B i := by
    intro i
    by_cases hi : i < B.length
    · simp [byteAt, List.getD_eq_getElem?_getD, List.getElem?_append_left hi]
    · simp [byteAt, List.getD_eq_getElem?_getD, List.getElem?_append, hi, List.getElem?_replicate]
      split <;> rfl
  simp only [be32, h]

/-- Settles O56: the fixed lines by evaluation, the commands with operands by `cmd32_eq_ofNat`, LOADB by its groups
(`getElem?_groupWords`) and their offsets (`getElem?_loadWords`). -/
theorem pseudoStatementsExpand : Obligations.PseudoStatementsExpand := by
  refine ⟨fun position pos => ⟨rfl, rfl, rfl, rfl, rfl, rfl, rfl, rfl, rfl⟩, fun s => hostStep_wait, hostWrite_clr,
    fun position pos n hn => ⟨expand_cksum _ _ .rx false hn, expand_cksum _ _ .tx false hn, expand_cksum _ _ .rx true hn,
      expand_cksum _ _ .tx true hn, expand_rand _ _ hn⟩, fun position pos win i bytes hi => ?_⟩
  refine ⟨loadWords (win + i) (groupWords bytes), by rw [AsmLine.expand, if_pos hi], ?length,
    fun j hj => ⟨BitVec.ofNat 16 (win + i + 4 * j), ?group, ?offset⟩⟩
  case length => rw [length_loadWords, length_groupWords]
  case group =>
    rw [getElem?_loadWords, getElem?_groupWords hj, ← be32_append_zeros (bytes.drop (4 * j)) 3]
    rfl
  case offset =>
    intro hlt
    rw [BitVec.toNat_ofNat, Nat.mod_eq_of_lt hlt]

end Sys2Proof.Machine
end

section
/-!
PROOFS. The checksum as a function of the bytes (40_checksum R130, R132), the zero-field view (R134), and the trailing
zeros of a buffer, which the checksum does not see (R137).
-/
namespace Sys2Proof.Machine

/-! ### The function -/

/-- The sum of word `k`, the bytes `2 * k` and `2 * k + 1`, over every index: a byte past the end counts as 0, so an odd
last byte is a high byte only (40_checksum R130). -/
theorem wordSum_eq_sum_range (B : List Byte) :
    wordSum B = ((List.range ((B.length + 1) / 2)).map fun k =>
      (B.getD (2 * k) 0).toNat * 256 + (B.getD (2 * k + 1) 0).toNat).sum := by
  fun_induction wordSum B with
  | case1 => rfl
  | case2 hi => simp
  | case3 hi lo rest ih =>
    have hlen : ((hi :: lo :: rest).length + 1) / 2 = (rest.length + 1) / 2 + 1 := by simp; omega
    rw [hlen, List.range_succ_eq_map, List.map_cons, List.map_map, List.sum_cons, ih]
    rfl

/-- Settles O12: `toNat_cksum` with each fold as a quotient and a remainder (`fold_eq`) and the accumulator by its words'
indices (`wordSum_eq_sum_range`). -/
theorem checksumIsFoldedComplement : Obligations.ChecksumIsFoldedComplement := by
  intro B
  simp only [toNat_cksum, fold_eq, wordSum_eq_sum_range]

/-- A fold adds the part above bit 15 to the part below it and drops nothing, so only 0 folds to 0. -/
theorem fold_eq_zero_iff (acc : Nat) : fold acc = 0 ↔ acc = 0 := by
  rw [fold_eq]
  omega

/-- The two folded sums that give 0xFFFF: the complement of 0, and the replaced complement of 0xFFFF (40_checksum R132). -/
theorem cksum_eq_ff_iff (B : List Byte) :
    cksum B = 0xFFFF ↔ fold (fold (wordSum B)) % 65536 = 0 ∨ fold (fold (wordSum B)) % 65536 = 65535 := by
  rw [← BitVec.toNat_inj, toNat_cksum, show (0xFFFF : Half).toNat = 65535 from rfl]
  split <;> omega

/-- Settles O13: `cksum_ne_zero`, `cksum_eq_ff_iff`, and the folded sum is 0 only for the sum 0
(`fold_eq_zero_iff`), which is that of zero bytes (`wordSum_eq_zero_iff`). -/
theorem checksumIsNeverZero : Obligations.ChecksumIsNeverZero := by
  intro B
  refine ⟨cksum_ne_zero B, cksum_eq_ff_iff B, ?_⟩
  rw [fold_eq_zero_iff, fold_eq_zero_iff, wordSum_eq_zero_iff]

/-! ### The zero-field view -/

theorem getElem?_zeroField {B : List Byte} {i : Nat} (h : i < B.length) :
    (zeroField B)[i]? = if i = 2 ∨ i = 3 then some 0 else B[i]? := by
  by_cases h3 : i = 3
  · subst h3; simp [zeroField, h]
  · by_cases h2 : i = 2
    · subst h2; simp [zeroField, h]
    · simp [zeroField, List.getElem?_set_ne, h2, h3, Ne.symm h2, Ne.symm h3]

/-- Settles O16, index by index (`getElem?_zeroField`). -/
theorem zeroFieldViewZeroesBytesTwoAndThree : Obligations.ZeroFieldViewZeroesBytesTwoAndThree :=
  fun B => ⟨length_zeroField B, fun _ => getElem?_zeroField⟩

/-! ### Trailing zeros -/

theorem cksum_append_zeros (B : List Byte) (k : Nat) : cksum (B ++ List.replicate k 0) = cksum B := by
  rw [cksum, wordSum_append_zeros, cksum]

/-- Past its populated region, the 28 bytes before the banner and the banner, a reply is zeros (30_encoding R102). -/
theorem take_append_zeros_checksummedReply {fresh id : List Byte} (hf : fresh.length = 6) (hi : id.length = 6)
    (banner : List Byte) :
    (checksummedReply fresh id banner).take (28 + banner.length) ++ List.replicate (100 - banner.length) 0 =
      checksummedReply fresh id banner := by
  rw [checksummedReply, List.take_left' (by simp [hf, hi]; omega)]

theorem exec_reply_of_initd {s : State} (h : s.initd = true) : exec .reply s = .next (replyEffect s).finish := by
  rw [exec_eq, runCommand_of_pass _ _ (by simp [checksOf, h]), effectOf]

/-- Settles O15: a reply is its populated region and zeros (`take_append_zeros_checksummedReply`), and zeros at the end do
not count (`cksum_append_zeros`). -/
theorem trailingZerosKeepChecksum : Obligations.TrailingZerosKeepChecksum := by
  refine ⟨cksum_append_zeros, fun s hs hb => ⟨_, exec_reply_of_initd hs, ?_⟩⟩
  have hreply := readBytes_of_exec_reply hs hb (exec_reply_of_initd hs)
  have hsplit := take_append_zeros_checksummedReply (length_randomBytes 6 s) (length_messageId s) (bannerBytes s)
  rw [length_bannerBytes] at hsplit
  rw [← take_readBytes _ _ (show 28 + s.bannerLen.toNat ≤ 128 by omega), hreply]
  conv_lhs => rw [← hsplit, cksum_append_zeros]

end Sys2Proof.Machine
end

section
/-!
PROOFS. The fallback generator (41_prng R152 to R159): seeding, the twist in closed form, tempering and extraction, the
words and bytes of a request, and the stream after SEED.
-/
namespace Sys2Proof.Machine

/-! ### Seeding (41_prng R152) -/

theorem getElem_mtSeed (seed : Word) (i : Nat) (h : i < 624) : (mtSeed seed).mt[i] = seedWord seed i := by
  simp [mtSeed]

/-- The recurrence on numbers: the word arithmetic of `seedWord` is the one modulo 2^32. -/
theorem toNat_seedWord_succ (seed : Word) (i : Nat) :
    (seedWord seed (i + 1)).toNat =
      (1812433253 * (seedWord seed i ^^^ (seedWord seed i >>> 30)).toNat + (i + 1)) % 2 ^ 32 := by
  simp [seedWord, mtMultiplier]

/-- Settles O18: each word is its `seedWord` (`getElem_mtSeed`), whose recurrence is `toNat_seedWord_succ`; the cursor
and `seeded` are fields of `mtSeed`. -/
theorem seedingFollowsRecurrence : Obligations.SeedingFollowsRecurrence := by
  refine fun seed => ⟨getElem_mtSeed seed 0 (by decide), fun i h => ?_, rfl, rfl⟩
  rw [getElem_mtSeed, getElem_mtSeed, toNat_seedWord_succ]

/-! ### The twist (41_prng R153) -/

/-- The twist constant goes in exactly when the untwisted value is odd. -/
theorem twistWord_eq (cur next far : Word) :
    twistWord cur next far =
      far ^^^ (((cur &&& mtUpper) ||| (next &&& mtLower)) >>> 1 ^^^
        (if ((cur &&& mtUpper) ||| (next &&& mtLower)).toNat % 2 = 1 then mtTwistConstant else 0)) := by
  simp only [twistWord]
  generalize (cur &&& mtUpper) ||| (next &&& mtLower) = y
  have odd : y.getLsbD 0 = true ↔ y.toNat % 2 = 1 := by
    rw [BitVec.getLsbD, Nat.testBit_zero, decide_eq_true_iff]
  simp only [odd]
  split
  · rfl
  · simp

/-- A word the pass is done with is final, though the pass still runs. -/
theorem twistUpTo_final (old : Vector Word 624) (k : Nat) (hk : k ≤ 624) (j : Nat) (hj : j < k) :
    (twistUpTo old k)[j] = (mtTwist old)[j] := by
  rw [mtTwist_eq, twistUpTo_passed old k hk j hj, twistUpTo_passed old 624 le_rfl j (by omega)]

/-- Before iteration 227 the far word is not reached yet. -/
theorem getElem_mtTwist_of_lt (old : Vector Word 624) (i : Nat) (h : i < 227) :
    (mtTwist old)[i] = twistWord old[i] old[i + 1] old[i + 397] := by
  have hnext : (i + 1) % 624 = i + 1 := by omega
  have hfar : (i + 397) % 624 = i + 397 := by omega
  rw [getElem_mtTwist old i (by omega)]
  simp only [hnext, hfar]
  rw [twistUpTo_not_reached old i (by omega) i (by omega) le_rfl,
    twistUpTo_not_reached old i (by omega) (i + 1) (by omega) (by omega),
    twistUpTo_not_reached old i (by omega) (i + 397) (by omega) (by omega)]

/-- From iteration 227 on the far word is final. -/
theorem getElem_mtTwist_of_ge (old : Vector Word 624) (i : Nat) (h : i < 623) (hi : 227 ≤ i) :
    (mtTwist old)[i] = twistWord old[i] old[i + 1] ((mtTwist old)[i - 227]'(by omega)) := by
  have hnext : (i + 1) % 624 = i + 1 := by omega
  have hfar : (i + 397) % 624 = i - 227 := by omega
  rw [getElem_mtTwist old i (by omega)]
  simp only [hnext, hfar]
  rw [twistUpTo_not_reached old i (by omega) i (by omega) le_rfl,
    twistUpTo_not_reached old i (by omega) (i + 1) (by omega) (by omega),
    twistUpTo_final old i (by omega) (i - 227) (by omega)]

/-- The last iteration wraps round to word 0, final since iteration 0. -/
theorem getElem_mtTwist_last (old : Vector Word 624) :
    (mtTwist old)[623] = twistWord old[623] (mtTwist old)[0] (mtTwist old)[396] := by
  rw [getElem_mtTwist old 623 (by decide)]
  simp only [show (623 + 1) % 624 = 0 from rfl, show (623 + 397) % 624 = 396 from rfl]
  rw [twistUpTo_not_reached old 623 (by decide) 623 (by decide) le_rfl,
    twistUpTo_final old 623 (by decide) 0 (by decide), twistUpTo_final old 623 (by decide) 396 (by decide)]

/-- Settles O20: one iteration is `twistWord_eq`; the three ranges of the index are the three `getElem_mtTwist` lemmas,
which say of each word read whether the pass has reached it. -/
theorem twistInClosedForm : Obligations.TwistInClosedForm :=
  ⟨twistWord_eq, fun old => ⟨getElem_mtTwist_of_lt old, getElem_mtTwist_of_ge old, getElem_mtTwist_last old⟩⟩

/-! ### Tempering and extraction (41_prng R154, R155) -/

/-- Settles O21: a right shift divides, a left shift multiplies modulo 2^32, the other operations are bitwise on both
sides. -/
theorem temperingTransform : Obligations.TemperingTransform := by
  intro y
  simp only [temper, BitVec.toNat_xor, BitVec.toNat_and, BitVec.toNat_ushiftRight, BitVec.toNat_shiftLeft,
    Nat.shiftRight_eq_div_pow, Nat.shiftLeft_eq]
  rfl

theorem mtExtract_of_cursor_eq {p : Prng} (h : p.cursor.val = 624) :
    mtExtract p = (temper (mtTwist p.mt)[0], { p with mt := mtTwist p.mt, cursor := 1 }) := by
  rw [mtExtract, dif_pos h]

theorem mtExtract_of_cursor_lt {p : Prng} (h : p.cursor.val < 624) :
    mtExtract p = (temper p.mt[p.cursor.val], { p with cursor := ⟨p.cursor.val + 1, by omega⟩ }) := by
  rw [mtExtract, dif_neg h.ne]

/-- Settles O22: an extraction is one of two, by the cursor, which is at most 624; the cursor range holds in each. -/
theorem extractionTwistsLazily : Obligations.ExtractionTwistsLazily := by
  intro p
  refine ⟨mtExtract_of_cursor_eq, fun h => by simp [mtExtract_of_cursor_lt h], ?_⟩
  rcases (show p.cursor.val ≤ 624 by omega).eq_or_lt with h | h
  · simp [mtExtract_of_cursor_eq h]
  · simp [mtExtract_of_cursor_lt h]; omega

/-! ### The words and bytes of a request (41_prng R157, R158) -/

theorem mtBytes_of_mod_eq {n : Nat} (h : n % 4 = 0) (s : State) : mtBytes n s = mtGroups (n / 4) s := by
  simp [mtBytes, h]

theorem mtBytes_of_mod_ne {n : Nat} (h : n % 4 ≠ 0) (s : State) :
    mtBytes n s =
      ((mtGroups (n / 4) s).1 ++ (bytesBE32 (streamWord (n / 4) s)).drop (4 - n % 4), afterWords (n / 4 + 1) s) := by
  simp [mtBytes, h, mtGroups_state, streamWord, afterWords_succ]

/-- Settles O24: the groups extract `n / 4` words (`mtGroups_state`), a remainder one more. -/
theorem byteRequestWordCount : Obligations.ByteRequestWordCount := by
  intro n s
  by_cases hn : n % 4 = 0
  · rw [mtBytes_of_mod_eq hn, mtGroups_state, show (n + 3) / 4 = n / 4 by omega]
  · rw [mtBytes_of_mod_ne hn, show (n + 3) / 4 = n / 4 + 1 by omega]

/-- The whole groups, and what comes after them. -/
theorem mtBytes_bytes (n : Nat) (s : State) :
    (mtBytes n s).1 = (mtGroups (n / 4) s).1 ++ (bytesBE32 (streamWord (n / 4) s)).drop (4 - n % 4) := by
  by_cases hn : n % 4 = 0
  · simp [mtBytes_of_mod_eq hn, hn]
  · rw [mtBytes_of_mod_ne hn]

@[simp] theorem length_mtBytes (n : Nat) (s : State) : (mtBytes n s).1.length = n := by
  simp [mtBytes_bytes, length_mtGroups]; omega

/-- Settles O25: an index below `4 * (n / 4)` falls in the groups (`getElem?_mtGroups`), a later one in the trailing
bytes. -/
theorem byteRequestAssembly : Obligations.ByteRequestAssembly := by
  refine fun n s => ⟨length_mtBytes n s, fun j hj => ?_, fun j hj hn => ?_⟩
  · rw [mtBytes_bytes, List.getElem?_append_left (by simpa [length_mtGroups] using hj), getElem?_mtGroups _ _ _ hj]
  · rw [mtBytes_bytes, List.getElem?_append_right (by simpa [length_mtGroups] using hj), List.getElem?_drop,
      length_mtGroups, show j - 4 * (n / 4) = j % 4 by omega]

/-! ### The stream after SEED (41_prng R159)

A seeded generator draws no time, so its words depend on the PRNG state alone; and a request sees a state through its
words only. -/

/-- The two generators return the same words from here on. -/
def sameStream (s t : State) : Prop := ∀ k, streamWord k s = streamWord k t

theorem mtNext_of_seeded {s : State} (h : s.prng.seeded = true) :
    mtNext s = ((mtExtract s.prng).1, { s with prng := (mtExtract s.prng).2 }) := by
  simp [mtNext, seedIfNeeded, h]

theorem sameStream_of_prng_eq {s t : State} (h : s.prng = t.prng) (hs : s.prng.seeded = true) : sameStream s t := by
  intro k
  induction k generalizing s t with
  | zero => simp [streamWord, afterWords, mtNext_of_seeded hs, mtNext_of_seeded (h ▸ hs), h]
  | succ k ih =>
    refine ih ?_ (mtNext_seeded s)
    rw [mtNext_of_seeded hs, mtNext_of_seeded (h ▸ hs), h]

theorem afterWords_add (j k : Nat) (s : State) : afterWords (j + k) s = afterWords k (afterWords j s) := by
  induction k with
  | zero => rfl
  | succ k ih => rw [← Nat.add_assoc, afterWords_succ, ih, afterWords_succ]

theorem sameStream_afterWords {s t : State} (h : sameStream s t) (j : Nat) :
    sameStream (afterWords j s) (afterWords j t) := by
  intro k
  simpa [streamWord, afterWords_add] using h (j + k)

/-- The bytes of a request are bytes of the words (`byteRequestAssembly`). -/
theorem mtBytes_bytes_congr {s t : State} (h : sameStream s t) (n : Nat) :
    (mtBytes n s).1 = (mtBytes n t).1 := by
  obtain ⟨hlen, hgroups, htrailing⟩ := byteRequestAssembly n s
  obtain ⟨hlen', hgroups', htrailing'⟩ := byteRequestAssembly n t
  refine List.ext_getElem? fun j => ?_
  rcases lt_or_ge j (4 * (n / 4)) with hj | hj
  · rw [hgroups j hj, hgroups' j hj, h]
  · rcases lt_or_ge j n with hn | hn
    · rw [htrailing j hj hn, htrailing' j hj hn, h]
    · rw [List.getElem?_eq_none (hlen.trans_le hn), List.getElem?_eq_none (hlen'.trans_le hn)]

theorem byteStream_congr {s t : State} (h : sameStream s t) (requests : List Nat) :
    byteStream requests s = byteStream requests t := by
  induction requests generalizing s t with
  | nil => rfl
  | cons n rest ih =>
    have hnext : sameStream (mtBytes n s).2 (mtBytes n t).2 := by
      rw [byteRequestWordCount n s, byteRequestWordCount n t]
      exact sameStream_afterWords h _
    simp only [byteStream, mtBytes_bytes_congr h n, ih hnext]

theorem exec_seed (s : State) : exec .seed s = .next (seedEffect s).finish := by
  rw [exec_eq, runCommand_of_pass _ _ rfl, effectOf]

/-- Settles O26: SEED leaves both states the PRNG state of the same seed, seeded, so the words agree
(`sameStream_of_prng_eq`), and with them the bytes of every list of requests (`byteStream_congr`). -/
theorem streamIsFunctionOfSeed : Obligations.StreamIsFunctionOfSeed := by
  intro s s' t t' hseed ht ht'
  rw [exec_seed] at ht ht'
  cases ht
  cases ht'
  have hstream : sameStream (seedEffect s).finish (seedEffect s').finish :=
    sameStream_of_prng_eq (by simp [seedEffect, hseed]) rfl
  exact ⟨hstream, byteStream_congr hstream⟩

end Sys2Proof.Machine
end

section
/-!
PROOFS. The Packet Decoder: the decode function case by case, in the order of its checks (42_decoder R191 to R194), what
DECODE writes (R195 to R197), and that DECODE, as every step, has a next state (R198).
-/
namespace Sys2Proof.Machine

/-! ### The decode function (42_decoder R191) -/

theorem decodeDatagram_of_short {D : List Byte} (hlen : D.length < 12) : decodeDatagram D = .discard .short :=
  if_pos hlen

theorem decodeDatagram_of_wrongMagic {D : List Byte} (hlen : 12 ≤ D.length) (hmagic : be16 D 0 ≠ magic) :
    decodeDatagram D = .discard .magic :=
  (if_neg (Nat.not_lt.mpr hlen)).trans (if_pos hmagic)

theorem decodeDatagram_of_wrongChecksum {D : List Byte} (hlen : 12 ≤ D.length) (hmagic : be16 D 0 = magic)
    (hck : ¬ (be16 D 2 = 0 ∨ cksum (zeroField D) = be16 D 2)) : decodeDatagram D = .discard .checksum :=
  (if_neg (Nat.not_lt.mpr hlen)).trans ((if_neg (not_not.mpr hmagic)).trans (if_pos (not_or.mp hck)))

/-- Accepted; a checksum was verified exactly when its field is not 0. -/
theorem decodeDatagram_of_valid {D : List Byte} (hlen : 12 ≤ D.length) (hmagic : be16 D 0 = magic)
    (hck : be16 D 2 = 0 ∨ cksum (zeroField D) = be16 D 2) :
    decodeDatagram D = .accept (slice D 4 10) (be16 D 10) ((be16 D 10).getLsbD 0) (be16 D 2 != 0) :=
  have hpasses : ¬ (be16 D 2 ≠ 0 ∧ cksum (zeroField D) ≠ be16 D 2) := not_and_or.mpr (hck.imp not_not.mpr not_not.mpr)
  (if_neg (Nat.not_lt.mpr hlen)).trans ((if_neg (not_not.mpr hmagic)).trans (if_neg hpasses))

/-! ### The header fields by their bytes (30_encoding R100) -/

theorem eq_be16_iff {D : List Byte} {i : Nat} {v : Half} :
    v = be16 D i ↔ v.toNat = (byteAt D i).toNat * 256 + (byteAt D (i + 1)).toNat := by
  rw [← toNat_be16, BitVec.toNat_eq]

theorem be16_eq_zero_iff {D : List Byte} {i : Nat} :
    be16 D i = 0 ↔ (byteAt D i).toNat * 256 + (byteAt D (i + 1)).toNat = 0 := by
  rw [← toNat_be16, BitVec.toNat_eq]
  rfl

theorem be16_eq_magic_iff {D : List Byte} : be16 D 0 = magic ↔ byteAt D 0 = 0x32 ∧ byteAt D 1 = 0x50 := by
  have hlo := (byteAt D 1).isLt
  rw [eq_comm, eq_be16_iff, ← BitVec.toNat_inj, ← BitVec.toNat_inj]
  simp [magic]
  omega

/-- Bit 0 of a 16-bit field is bit 0 of its second byte. -/
theorem getLsbD_zero_be16 (D : List Byte) (i : Nat) : (be16 D i).getLsbD 0 = (byteAt D (i + 1)).getLsbD 0 := by
  rw [BitVec.getLsbD, BitVec.getLsbD, toNat_be16, Nat.testBit_zero, Nat.testBit_zero]
  congr 2
  omega

/-- Settles O29: the four cases of `decodeDatagram`, with the magic, the checksum field and bit 0 of the flags read as
the bytes they stand for. -/
theorem decodeValidatesInOrder : Obligations.DecodeValidatesInOrder := by
  intro D field goodMagic goodChecksum
  have hmagic : be16 D 0 = magic ↔ goodMagic := be16_eq_magic_iff
  have hzero : be16 D 2 = 0 ↔ field = 0 := be16_eq_zero_iff
  have hck : (be16 D 2 = 0 ∨ cksum (zeroField D) = be16 D 2) ↔ goodChecksum := or_congr hzero eq_be16_iff
  refine ⟨decodeDatagram_of_short, fun hlen hm => ?magic, fun hlen hm hc => ?checksum, fun hlen hm hc => ?accept⟩
  case magic => exact decodeDatagram_of_wrongMagic hlen (mt hmagic.mp hm)
  case checksum => exact decodeDatagram_of_wrongChecksum hlen (hmagic.mpr hm) (mt hck.mp hc)
  case accept =>
    have hverified : (be16 D 2 != 0) = decide (field ≠ 0) := by
      rw [Bool.eq_iff_iff, bne_iff_ne, decide_eq_true_iff, Ne, hzero]
    rw [decodeDatagram_of_valid hlen (hmagic.mpr hm) (hck.mpr hc), getLsbD_zero_be16, hverified]
    rfl

/-! ### DECODE (42_decoder R190, R195 to R197) -/

/-- A row that decodes to `reads` decides every word with its OP: the others are no command (30_encoding R92, R93). -/
theorem encodedBy_of_row {r : EncodingRow} (hr : r ∈ encodingRows) {reads : Word → Instr}
    (hreads : ∀ w, r.matches w = true → decodeWord w = .ok (reads w)) : encodedBy r.pattern r.mask reads :=
  fun w hop => ⟨fun h => hreads w (matches_iff.mpr h),
    fun h => illegal_of_own_row hr hop (matches_eq_false_iff.mpr h)⟩

theorem decodeWord_of_decodeRow {w : Word} (h : decodeRow.matches w = true) : decodeWord w = .ok .decode := by
  rw [eq_of_fullMask (matches_iff.mp h)]
  rfl

theorem exec_decode_of_tooLong {s : State} (h : Config.rxCap < s.rxLen.toNat) :
    exec .decode s = .next (s.raiseError .lenRange) := by
  have hfail : firstFailure (checksOf .decode s) = some .lenRange := by simp [checksOf, rxLenTooLong, h]
  rw [exec_eq, runCommand_of_fail _ _ hfail]

theorem exec_decode_of_fits {s : State} (h : s.rxLen.toNat ≤ Config.rxCap) :
    exec .decode s = .next (decodeEffect s).finish := by
  have hpass : firstFailure (checksOf .decode s) = none := by simp [checksOf, rxLenTooLong, h]
  rw [exec_eq, runCommand_of_pass _ _ hpass, effectOf]

/-- The decode by its result (42_decoder R190). -/
theorem decodeEffect_of_result {s : State} {d : Decoded}
    (h : decodeDatagram (s.readBytes 0x8000 s.rxLen.toNat) = d) : decodeEffect s = applyDecoded d s :=
  congrArg (applyDecoded · s) h

/-- Settles O30: the word's row, DEC_RESULT's word for each value of its fields, and DECODE in the three cases of its
length check and its result; the record updates of `raiseError`, `applyDecoded` and `finish` are the statement's. -/
theorem decodeWritesResultRegisters : Obligations.DecodeWritesResultRegisters := by
  refine ⟨?encoding, by decide, ?reasons, fun s => ⟨exec_decode_of_tooLong, ?discard, ?accept⟩⟩
  case encoding => exact encodedBy_of_row (r := decodeRow) (by decide) fun _ => decodeWord_of_decodeRow
  case reasons => intro reason; cases reason <;> rfl
  case discard =>
    intro reason hfits hresult
    rw [exec_decode_of_fits hfits, decodeEffect_of_result hresult]
    rfl
  case accept =>
    intro id flags rr ckp hfits hresult
    rw [exec_decode_of_fits hfits, decodeEffect_of_result hresult]
    rfl

/-! ### No input makes the engine stall (42_decoder R198) -/

/-- At the engine's turn the step is the pending command's meaning, without the move (70 R303). -/
theorem step_of_engineTurn {s : State} {i : Instr} (hturn : s.engineTurn) (hi : decodeWord s.pending = .ok i) :
    step s = exec i (popMove s) := by
  obtain ⟨hbusy, hmove⟩ := hturn
  rw [step, hmove, moveStep, engineStep, popMove_busy, popMove_pending, hi, hbusy]
  rfl

/-- While no command is pending the engine accepts one (10_state R24). -/
theorem hostWrite_cmd_idle {s : State} (hidle : s.busy = false) (w : Word) :
    hostWrite 0x000 w s = { s with pending := w, busy := true } := by
  calc hostWrite 0x000 w s
    _ = writeReg .cmd w s := hostWrite_idle .cmd w hidle
    _ = _ := by simp [writeReg, writeCmd, hidle]

theorem exists_next_exec (i : Instr) (s : State) : ∃ t, exec i s = .next t := by
  rcases exec_cases i s with ⟨c, -, h⟩ | ⟨-, h⟩
  · exact ⟨_, h⟩
  · exact ⟨_, h⟩

theorem exists_next_engineStep (s : State) : ∃ t, engineStep s = .next t := by
  rcases engineStep_cases s with ⟨-, h⟩ | ⟨-, -, h⟩ | ⟨-, i, -, h⟩
  · exact ⟨_, h⟩
  · exact ⟨_, h⟩
  · exact h ▸ exists_next_exec i s

theorem exists_next_step (s : State) : ∃ t, step s = .next t := by
  rcases step_cases s with ⟨-, h⟩ | ⟨-, h⟩ | ⟨-, h⟩
  · exact ⟨_, h⟩
  · exact ⟨_, h⟩
  · exact h ▸ exists_next_engineStep (popMove s)

/-- Settles O31: at the engine's turn DECODE ends by `finish` (`exec_decode_of_fits`), which leaves the engine idle; a
step of any agent has a next state (`exists_next_step`). -/
theorem decodeAlwaysFinishes : Obligations.DecodeAlwaysFinishes := by
  refine ⟨fun s hturn hpending hfits => ?_, exists_next_step⟩
  have hdecode : decodeWord s.pending = .ok .decode := by rw [hpending]; rfl
  have hstep : step s = .next (decodeEffect (popMove s)).finish :=
    (step_of_engineTurn hturn hdecode).trans (exec_decode_of_fits hfits)
  obtain ⟨herr, herrcode, -⟩ := effectOf_status .decode (popMove s)
  exact ⟨_, hstep, rfl, rfl, herr, herrcode, hostWrite_cmd_idle rfl⟩

end Sys2Proof.Machine
end

section
/-!
PROOFS. The reply in TXBUF (43_encoder R210): where its fresh id and the message id stand, that it verifies (R216), and
that the fresh id depends on the generator and its source only (R215).
-/
namespace Sys2Proof.Machine

/-! ### Slices -/

theorem slice_append {before part rest : List Byte} {i j : Nat} (hi : before.length = i)
    (hj : i + part.length = j) : slice (before ++ part ++ rest) i j = part := by
  subst hi hj
  simp [slice]

theorem slice_take {B : List Byte} {i j n : Nat} (h : j ≤ n) : slice (B.take n) i j = slice B i j := by
  rw [slice, List.drop_take, List.take_take, Nat.min_eq_left (Nat.sub_le_sub_right h i), slice]

theorem slice_readBytes (s : State) (a : Nat) {i j n : Nat} (h : j ≤ n) :
    slice (s.readBytes a n) i j = s.readBytes (a + i) (j - i) := by
  refine List.ext_getElem (by simp [slice]; omega) fun k _ _ => ?_
  simp [slice, getElem_readBytes, Nat.add_assoc]

/-! ### The ids in the built reply (30_encoding R102) -/

/-- Filling the checksum field changes bytes 2 and 3 only (43_encoder R210, step 7). -/
theorem slice_signReply (B : List Byte) {i : Nat} (hi : 4 ≤ i) (j : Nat) : slice (signReply B) i j = slice B i j := by
  have h2 : 2 < i := by omega
  have h3 : 3 < i := by omega
  simp only [slice, signReply, List.drop_set_of_lt h3, List.drop_set_of_lt h2]

/-- Whatever the banner, bytes 4 to 9 are the fresh id and bytes 14 to 19 the message id. -/
theorem unsignedReply_ids (fresh id banner : List Byte) :
    ∃ rest, unsignedReply fresh id banner =
      (bytesBE16 magic ++ [0, 0] ++ fresh ++ (bytesBE16 replyFlags ++ bytesBE16 6) ++ id ++ rest).take txSize :=
  ⟨_, by simp only [unsignedReply, List.append_assoc]; rfl⟩

theorem slice_unsignedReply_fresh {fresh : List Byte} (hf : fresh.length = 6) (id banner : List Byte) :
    slice (unsignedReply fresh id banner) 4 10 = fresh := by
  obtain ⟨rest, h⟩ := unsignedReply_ids fresh id banner
  rw [h, slice_take (by decide), List.append_assoc, List.append_assoc]
  exact slice_append rfl (by rw [hf])

theorem slice_unsignedReply_id {fresh id : List Byte} (hf : fresh.length = 6) (hi : id.length = 6)
    (banner : List Byte) : slice (unsignedReply fresh id banner) 14 20 = id := by
  obtain ⟨rest, h⟩ := unsignedReply_ids fresh id banner
  rw [h, slice_take (by decide)]
  exact slice_append (by simp [hf]) (by rw [hi])

/-- TXBUF after REPLY, whatever the banner's length (43_encoder R213). -/
theorem readBytes_txbuf_of_exec_reply {s t : State} (hs : s.initd = true) (h : exec .reply s = .next t) :
    t.readBytes 0x100 128 = signReply (unsignedReply (randomBytes 6 s).1 (messageId s) (bannerBytes s)) := by
  cases (exec_reply_of_initd hs).symm.trans h
  exact readBytes_buildReply s

theorem readBytes_freshId_of_exec_reply {s t : State} (hs : s.initd = true) (h : exec .reply s = .next t) :
    t.readBytes 0x104 6 = (randomBytes 6 s).1 := by
  calc t.readBytes 0x104 6
    _ = slice (t.readBytes 0x100 128) 4 10 := by rw [slice_readBytes t 0x100 (by decide)]
    _ = (randomBytes 6 s).1 := by
      rw [readBytes_txbuf_of_exec_reply hs h, slice_signReply _ (by decide),
        slice_unsignedReply_fresh (length_randomBytes 6 s)]

theorem readBytes_messageId_of_exec_reply {s t : State} (hs : s.initd = true) (h : exec .reply s = .next t) :
    t.readBytes 0x10E 6 = messageId s := by
  calc t.readBytes 0x10E 6
    _ = slice (t.readBytes 0x100 128) 14 20 := by rw [slice_readBytes t 0x100 (by decide)]
    _ = messageId s := by
      rw [readBytes_txbuf_of_exec_reply hs h, slice_signReply _ (by decide),
        slice_unsignedReply_id (length_randomBytes 6 s) (length_messageId s)]

/-! ### The built reply verifies (R216) -/

/-- Settles O33: the checksum field is the checksum of the zero-field view (`be16_checksummedReply_checksum`), so the
datagram is accepted (`decodeDatagram_of_checksummed`); its id is bytes 4 to 9, the fresh id. -/
theorem builtReplyVerifies : Obligations.BuiltReplyVerifies := by
  intro s hs hb
  have hexec := exec_reply_of_initd hs
  refine ⟨_, hexec, ?_⟩
  have hfresh := readBytes_freshId_of_exec_reply hs hexec
  have hreply := readBytes_of_exec_reply hs hb hexec
  generalize (replyEffect s).finish = t at hfresh hreply ⊢
  have hmagic : be16 (t.readBytes 0x100 128) 0 = magic := by rw [hreply, be16_checksummedReply_magic]
  have hflags : be16 (t.readBytes 0x100 128) 10 = 0x8002 := by
    rw [hreply, be16_checksummedReply_flags (length_randomBytes 6 s), replyFlags]
  have hck : be16 (t.readBytes 0x100 128) 2 = cksum (zeroField (t.readBytes 0x100 128)) := by
    rw [hreply, be16_checksummedReply_checksum, zeroField_checksummedReply]
  refine ⟨hck.symm, hck ▸ cksum_ne_zero _, ?_⟩
  rw [decodeDatagram_of_checksummed (by rw [length_readBytes]; decide) hmagic hck, hflags,
    slice_readBytes t 0x100 (by decide), hfresh]
  rfl

/-! ### The fresh id depends on the generator and its source only (R215) -/

/-- First-use seeding draws the time by its number, so it sees nothing else of the state (41_prng R156). -/
theorem seedIfNeeded_prng_congr {s t : State} (hp : s.prng = t.prng) (hd : s.draws = t.draws) :
    (seedIfNeeded s).prng = (seedIfNeeded t).prng := by
  unfold seedIfNeeded
  rw [hp, hd]
  split
  · exact hp
  · rfl

/-- Once an extraction has seeded the generator, the draw number does not matter any more. -/
theorem sameStream_of_prng_draws_eq {s t : State} (hp : s.prng = t.prng) (hd : s.draws = t.draws) :
    sameStream s t := by
  have hseed := seedIfNeeded_prng_congr hp hd
  intro k
  cases k with
  | zero => simp [streamWord, afterWords, mtNext, hseed]
  | succ k => exact sameStream_of_prng_eq (by simp [mtNext, hseed]) (mtNext_seeded s) k

theorem randomBytes_bytes_congr {s t : State} (hp : s.prng = t.prng) (hsrc : s.srcHw = t.srcHw)
    (hd : s.draws = t.draws) (n : Nat) : (randomBytes n s).1 = (randomBytes n t).1 := by
  unfold randomBytes
  rw [hsrc]
  split
  · simp only [entropyBytes, hd]
  · exact mtBytes_bytes_congr (sameStream_of_prng_draws_eq hp hd) n

/-- Settles O35: bytes 4 to 9 are `randomBytes 6` of the state (`readBytes_freshId_of_exec_reply`), which depends on the
generator, its source and the draw number (`randomBytes_bytes_congr`); bytes 14 to 19 are the message id. -/
theorem replyIdIsIndependentOfMessage : Obligations.ReplyIdIsIndependentOfMessage := by
  intro s s' t t' hs hs' hprng hsrc hdraws ht ht'
  refine ⟨?_, readBytes_messageId_of_exec_reply hs ht⟩
  calc t.readBytes 0x104 6
    _ = (randomBytes 6 s).1 := readBytes_freshId_of_exec_reply hs ht
    _ = (randomBytes 6 s').1 := randomBytes_bytes_congr hprng hsrc hdraws 6
    _ = t'.readBytes 0x104 6 := (readBytes_freshId_of_exec_reply hs' ht').symm

end Sys2Proof.Machine
end

section
/-!
PROOFS. How a command ends (60_exceptions R260, R261): in the error of its first failing check, in the order of R263, or
by `finish`.
-/
namespace Sys2Proof.Machine

/-! ### The two ends of a command -/

theorem endsInError_of_fail {i : Instr} {s : State} {code : ErrCode}
    (h : firstFailure (checksOf i s) = some code) : endsInError i s code := by
  rw [endsInError, exec_eq, runCommand_of_fail _ _ h, State.raiseError]

/-- No effect writes ERR or ERRCODE (`effectOf_status`), so `finish` leaves them as they were. -/
theorem exec_finishes_of_pass {i : Instr} {s : State} (h : firstFailure (checksOf i s) = none) :
    ∃ t, exec i s = .next t ∧ t.done = true ∧ t.busy = false ∧ t.err = s.err ∧ t.errcode = s.errcode := by
  obtain ⟨herr, hcode, -⟩ := effectOf_status i s
  exact ⟨(effectOf i s).finish, by rw [exec_eq, runCommand_of_pass _ _ h], rfl, rfl, herr, hcode⟩

/-- Settles O8: either some check fails, and the first one raises a code that is not NONE, or the effect is followed by
`finish`. -/
theorem erroredCommandChangesOnlyStatus : Obligations.ErroredCommandChangesOnlyStatus := by
  intro i s
  cases h : firstFailure (checksOf i s) with
  | some code => exact .inl ⟨code, firstFailure_checksOf_ne_none h, endsInError_of_fail h⟩
  | none => exact .inr (exec_finishes_of_pass h)

/-! ### The order of the checks (60_exceptions R263) -/

/-- The checks each command makes, in the order it makes them, are the steps 2 to 4 of R263. -/
theorem firstFailure_checksOf (i : Instr) (s : State) : firstFailure (checksOf i s) = firstCheckFailing i s := by
  cases i with
  | nop | seed | next => rfl
  | init => simp [checksOf, firstCheckFailing, needsInit, lengthExceeds, bannerCap]
  | cksum sel zf n =>
    cases sel with
    | rx => simp [checksOf, firstCheckFailing, needsInit, lengthExceeds, selected, Buffer.size]
    | tx => simp [checksOf, firstCheckFailing, needsInit, lengthExceeds, selected, Buffer.size, txSize]
  | rand n => simp [checksOf, firstCheckFailing, needsInit, lengthExceeds, rndCap]
  | reply => simp [checksOf, firstCheckFailing, needsInit, lengthExceeds]
  | decode | process => simp [checksOf, firstCheckFailing, needsInit, lengthExceeds, rxLenTooLong]

/-- Settles O9: the check R263 names is the first failing one of the command's own list (`firstFailure_checksOf`), and a
word that is no command never reaches its checks (`engineStep_of_illegal`). -/
theorem checksFailInOrder : Obligations.ChecksFailInOrder := by
  refine ⟨fun i s => ⟨fun code h => ?fails, fun h => ?passes⟩, fun s hbusy hill => engineStep_of_illegal hbusy hill⟩
  case fails => exact endsInError_of_fail ((firstFailure_checksOf i s).trans h)
  case passes => exact exec_finishes_of_pass ((firstFailure_checksOf i s).trans h)

end Sys2Proof.Machine
end

section
/-!
PROOFS. The command word and its command determine each other (30_encoding R90 to R95): the fields of an encoded word are
the operands, and a word that matches a row is made of its fields.
-/
namespace Sys2Proof

@[simp] theorem selField_cmd32 (op : Byte) (sel : Sel) (zf : Bool) (len : Nat) :
    selField (cmd32 op sel.bit zf len) = sel := by
  rw [selField, selBit_cmd32]
  cases sel <;> rfl

/-- Settles O2: a command without operands by evaluation; the word of the others matches their row
(`Laws.EncodeMatchesRow`), and its fields are the operands. -/
theorem decodeEncodeRoundTrip : Obligations.DecodeEncodeRoundTrip := by
  intro i hwf
  cases i with
  | nop | init | seed | next | decode | reply | process => rfl
  | cksum sel zf n =>
    rw [decodeWord_of_cksumRow (matches_iff.mpr (Laws.EncodeMatchesRow.cksum sel zf n)), encode, selField_cmd32,
      zfField_cmd32, lenField_cmd32 _ _ _ hwf]
  | rand n =>
    rw [decodeWord_of_randRow (matches_iff.mpr (Laws.EncodeMatchesRow.rand n)), encode, lenField_cmd32 _ _ _ hwf]

/-! ### A word that decodes -/

/-- A word decodes to the command of a row it matches (30_encoding R92). -/
theorem matches_row_of_decodeWord {w : Word} {i : Instr} (h : decodeWord w = .ok i) : i.row.matches w = true := by
  unfold decodeWord at h
  iterate 9
    obtain ⟨hmatch, hok⟩ | ⟨-, h⟩ := ite_eq_iff.mp h
    · cases hok
      exact hmatch
  obtain ⟨-, hok⟩ | ⟨-, hok⟩ := ite_eq_iff.mp h <;> cases hok

/-- The bits a mask keeps are those of the pattern. -/
theorem getLsbD_of_matches {r : EncodingRow} {w : Word} (h : r.matches w = true) {k : Nat}
    (hk : r.mask.getLsbD k = true) : w.getLsbD k = r.pattern.getLsbD k := by
  rw [← matches_iff.mp h, BitVec.getLsbD_and, hk, Bool.and_true]

theorem lenFits_lenField (w : Word) : lenFits (lenField w) = true :=
  decide_eq_true (w.extractLsb' 16 16).isLt

theorem bit_selField (w : Word) : (selField w).bit = w.getLsbD 8 := by
  rw [selField]
  cases w.getLsbD 8 <;> rfl

/-- A word whose RES field, bits 15:10, is zero is made of its other fields (30_encoding R90). -/
theorem cmd32_fields {w : Word} (hres : w.toNat / 1024 % 64 = 0) :
    cmd32 (opField w) (w.getLsbD 8) (zfField w) (lenField w) = w := by
  have hlen := w.isLt
  have hop : (opField w).toNat = w.toNat % 256 := by simp [opField, BitVec.extractLsb'_toNat]
  have hbit : ∀ k, (w.getLsbD k).toNat = w.toNat / 2 ^ k % 2 := fun k => by
    rw [BitVec.getLsbD, Nat.toNat_testBit]
  apply BitVec.eq_of_toNat_eq
  rw [toNat_cmd32, hop, zfField, hbit, hbit, lenField_eq]
  omega

/-- A row whose mask covers RES and whose pattern has RES = 0 matches only words with RES = 0. -/
theorem res_of_matches {r : EncodingRow} {w : Word} (h : r.matches w = true) (hm : r.mask.toNat / 1024 % 64 = 63)
    (hp : r.pattern.toNat / 1024 % 64 = 0) : w.toNat / 1024 % 64 = 0 := by
  have hres : ∀ v : Word, v.toNat / 1024 % 64 = (v.extractLsb' 10 6).toNat := fun v => by
    rw [BitVec.extractLsb'_toNat, Nat.shiftRight_eq_div_pow]
  have hm' : r.mask.extractLsb' 10 6 = BitVec.allOnes 6 := BitVec.eq_of_toNat_eq ((hres _).symm.trans hm)
  rw [hres] at hp ⊢
  rw [← hp, ← matches_iff.mp h, BitVec.extractLsb'_and, hm', BitVec.and_allOnes]

/-- Settles O3: the word matches the row of its command (`matches_row_of_decodeWord`), so either it is the row's pattern,
or its reserved bits are zero and the fields the row leaves free are the operands (`cmd32_fields`). -/
theorem encodeDecodeRoundTrip : Obligations.EncodeDecodeRoundTrip := by
  intro w i h
  have hrow := matches_row_of_decodeWord h
  cases i with
  | nop | init | seed | next | decode | reply | process => exact ⟨rfl, (eq_of_fullMask (matches_iff.mp hrow)).symm⟩
  | cksum sel zf n =>
    have hop : opField w = 0x02 := opField_of_matches (r := cksumRow) (by decide) hrow
    cases (decodeWord_of_cksumRow hrow).symm.trans h
    refine ⟨lenFits_lenField w, ?_⟩
    rw [encode, bit_selField, ← hop, cmd32_fields (res_of_matches (r := cksumRow) hrow rfl rfl)]
  | rand n =>
    have hop : opField w = 0x05 := opField_of_matches (r := randRow) (by decide) hrow
    have hsel : w.getLsbD 8 = false := getLsbD_of_matches (r := randRow) hrow rfl
    have hzf : zfField w = false := getLsbD_of_matches (r := randRow) hrow rfl
    cases (decodeWord_of_randRow hrow).symm.trans h
    refine ⟨lenFits_lenField w, ?_⟩
    have hfields := cmd32_fields (res_of_matches (r := randRow) hrow rfl rfl)
    rwa [hop, hsel, hzf] at hfields

end Sys2Proof
end

section
/-!
PROOFS. The engine step (70_reset_and_hazards R303) and the commands NOP, INIT, CKSUM, SEED, NEXT and RAND: their word,
their errors, and the exact state they leave.
-/
namespace Sys2Proof.Machine

/-! ### The engine step -/

/-- Settles O6: `withFetchWord` latches the word and puts the engine's move first, so that step is the engine's turn too. -/
theorem engineStepRunsDecodedCommand : Obligations.EngineStepRunsDecodedCommand := by
  refine ⟨fun s i hturn hi => step_of_engineTurn hturn hi, fun s nbits w i hi => ?_⟩
  have hdecode : decodeWord (BitVec.ofNat 32 (w % 2 ^ nbits)) = .ok i := by
    unfold decodeTableWord at hi
    split at hi
    · next hd => rw [hd, Option.some.inj hi]
    · cases hi
  exact step_of_engineTurn (s := s.withFetchWord nbits w) ⟨rfl, rfl⟩ hdecode

theorem step_of_illegal {s : State} (hturn : s.engineTurn) (h : illegal s.pending) :
    step s = .next ((popMove s).raiseError .illegalCmd) := by
  obtain ⟨hbusy, hmove⟩ := hturn
  rw [step, hmove]
  exact engineStep_of_illegal hbusy h

/-- Settles O7: a word that is no command ends in ILLEGAL_CMD, and a command has the two ends of R260 and R261
(`erroredCommandChangesOnlyStatus`). -/
theorem engineStepEndsCommand : Obligations.EngineStepEndsCommand := by
  intro s hturn
  cases hd : decodeWord s.pending with
  | error e => exact ⟨_, step_of_illegal hturn (illegal_iff.mpr ⟨e, hd⟩), rfl, .inr ⟨rfl, by simp, rfl⟩⟩
  | ok i =>
    rw [step_of_engineTurn hturn hd]
    rcases erroredCommandChangesOnlyStatus i (popMove s) with ⟨code, hcode, h⟩ | ⟨t, h, hdone, hbusy, herr, herrcode⟩
    · exact ⟨_, h, rfl, .inr ⟨rfl, hcode, rfl⟩⟩
    · exact ⟨t, h, hbusy, .inl ⟨hdone, herr, herrcode⟩⟩

/-! ### What the command proofs share -/

/-- A command without operands is one word (30_encoding R92). -/
theorem encodedBy_of_fullMask {r : EncodingRow} (hr : r ∈ encodingRows) {i : Instr} (hmask : r.mask = 0xFFFFFFFF)
    (hi : decodeWord r.pattern = .ok i) : encodedBy r.pattern r.mask fun _ => i :=
  encodedBy_of_row hr fun w h => by
    have hw : w &&& 0xFFFFFFFF = r.pattern := hmask ▸ matches_iff.mp h
    rw [eq_of_fullMask hw, hi]

theorem exec_of_pass {i : Instr} {s : State} (h : firstFailure (checksOf i s) = none) :
    exec i s = .next (effectOf i s).finish := by
  rw [exec_eq, runCommand_of_pass _ _ h]

section
variable {s t : State} {a n : Nat} {bs : List Byte}

/-- A state whose memory is another's with `bs` written at `a`, whatever else differs, reads `bs` there. -/
theorem readBytes_of_mem_eq_writeBytes (hlen : bs.length = n) (hm : t.mem = Memory.writeBytes s.mem a bs)
    (hr : t.resets = s.resets) : t.readBytes a n = bs := by
  rw [← hlen, readBytes_of_mem (s := s.writeBytes a bs) hm hr, readBytes_writeBytes]

theorem sameBytesOutside_of_mem_eq_writeBytes (hlen : bs.length = n) (hm : t.mem = Memory.writeBytes s.mem a bs)
    (hr : t.resets = s.resets) : sameBytesOutside a n s t := fun x hx => by
  rw [readByte_of_mem (s := s.writeBytes a bs) hm hr, readByte_writeBytes_outside s (hlen ▸ hx)]

end

/-! ### NOP and INIT (44_control) -/

/-- Settles O10: NOP has no check and no effect but `finish`. -/
theorem nopOnlySetsDone : Obligations.NopOnlySetsDone :=
  ⟨encodedBy_of_fullMask (r := nopRow) (by decide) rfl rfl, fun _ => rfl⟩

/-- Settles O11: the three cases of INIT's two checks. -/
theorem initLatchesConfiguration : Obligations.InitLatchesConfiguration := by
  refine ⟨encodedBy_of_fullMask (r := initRow) (by decide) rfl rfl, fun s => ⟨?already, ?config, ?latches⟩⟩
  case already => exact fun hi => endsInError_of_fail (by simp [checksOf, hi])
  case config => exact fun hi hb => endsInError_of_fail (by simp [checksOf, hi, bannerCap, hb])
  case latches =>
    intro hi hb
    rw [exec_of_pass (by simp [checksOf, hi, bannerCap, hb]), effectOf, initEffect, selectsHardware, Bool.and_comm]
    rfl

/-! ### CKSUM (40_checksum R136) -/

theorem exec_cksum_of_fits {sel : Sel} {n : Nat} (zf : Bool) (s : State) (h : n ≤ (selected sel).size) :
    exec (.cksum sel zf n) s = .next (cksumEffect sel zf n s).finish :=
  exec_of_pass (by simp [checksOf, h])

/-- The checksum of no bytes is 0xFFFF (40_checksum R132), whatever the buffer and the view. -/
theorem cksum_cksumOperand_zero (sel : Sel) (zf : Bool) (s : State) : cksum (cksumOperand sel zf 0 s) = 0xFFFF := by
  have hnil : cksumOperand sel zf 0 s = [] := by
    apply List.eq_nil_of_length_eq_zero
    cases zf <;> simp [cksumOperand, State.prefixOf]
  rw [hnil]
  rfl

/-- Settles O17: `cap` is the size of the buffer SEL selects, and `B` its first `n` bytes. -/
theorem cksumWritesChecksumOfPrefix : Obligations.CksumWritesChecksumOfPrefix := by
  refine ⟨encodedBy_of_row (r := cksumRow) (by decide) fun w h => lenField_eq w ▸ decodeWord_of_cksumRow h, ?_⟩
  intro s sel zf n cap B
  have hcap : cap = (selected sel).size := by cases sel <;> rfl
  have hB : B = s.prefixOf (selected sel) n := by cases sel <;> rfl
  refine ⟨fun h => endsInError_of_fail ?fails, fun h => ?fits, ?empty⟩
  case fails => simp [checksOf, ← hcap, h]
  case fits =>
    rw [exec_cksum_of_fits zf s (hcap ▸ h), hB]
    rfl
  case empty =>
    rw [exec_cksum_of_fits zf s (Nat.zero_le _), cksumEffect, cksum_cksumOperand_zero]
    rfl

/-! ### SEED and NEXT (41_prng R170, R171) -/

/-- Settles O19; the words of seed 0 by the recurrence (`getElem_mtSeed`). -/
theorem seedSeedsFromMtSeed : Obligations.SeedSeedsFromMtSeed := by
  refine ⟨encodedBy_of_fullMask (r := seedRow) (by decide) rfl rfl, fun s => ?exec, ?_, ?_, ?_⟩
  case exec => rw [exec_seed, seedEffect, State.finish]
  all_goals rw [getElem_mtSeed]; rfl

theorem mtSeed_seeded (seed : Word) : (mtSeed seed).seeded = true := rfl

/-- First use seeds from one draw of `time_now` (41_prng R156). -/
theorem mtNext_of_unseeded {s : State} (h : s.prng.seeded = false) :
    mtNext s = ((mtExtract (mtSeed (Config.timeNow s.draws))).1,
      { s with prng := (mtExtract (mtSeed (Config.timeNow s.draws))).2, draws := s.draws + 1 }) := by
  simp [mtNext, seedIfNeeded, h]

theorem exec_next (s : State) : exec .next s = .next { s with
    mtOut := (mtNext s).1, prng := (mtNext s).2.prng, draws := (mtNext s).2.draws, done := true, busy := false } := by
  rw [exec_of_pass rfl, effectOf, nextEffect_eq]
  rfl

/-- Settles O23: NEXT is one `mtNext` (`exec_next`), with or without first-use seeding. -/
theorem nextExtractsOneWord : Obligations.NextExtractsOneWord := by
  refine ⟨encodedBy_of_fullMask (r := nextRow) (by decide) rfl rfl, fun s => ⟨fun h => ?seeded, fun h => ?unseeded⟩⟩
  case seeded => rw [exec_next, mtNext_of_seeded h]
  case unseeded => exact ⟨_, exec_next s, by rw [mtNext_of_unseeded h], mtNext_seeded s⟩

/-! ### Random bytes and RAND (41_prng R161, R172) -/

theorem randomBytes_of_hardware {s : State} (h : s.srcHw = true) (n : Nat) : randomBytes n s = entropyBytes n s :=
  if_pos h

theorem randomBytes_of_fallback {s : State} (h : s.srcHw = false) (n : Nat) : randomBytes n s = mtBytes n s :=
  if_neg (by simp [h])

/-- Settles O27: the two branches of `randomBytes`. -/
theorem randomBytesComeFromSelectedSource : Obligations.RandomBytesComeFromSelectedSource := by
  refine fun n s => ⟨fun h => ?_, fun h => randomBytes_of_fallback h n⟩
  rw [randomBytes_of_hardware h]
  exact ⟨rfl, by simp [entropyBytes], fun j hj => by simp [entropyBytes, hj]⟩

/-- Neither the hardware source nor a request of no byte reads the MT state. -/
theorem randomBytes_prng {s : State} {n : Nat} (h : s.srcHw = true ∨ n = 0) : (randomBytes n s).2.prng = s.prng := by
  cases hs : s.srcHw with
  | true => rw [randomBytes_of_hardware hs]; rfl
  | false =>
    obtain rfl : n = 0 := by simpa [hs] using h
    rw [randomBytes_of_fallback hs]
    rfl

/-- Drawing bytes is a number of extractions. -/
theorem randomBytes_prng_afterWords (n : Nat) (s : State) : ∃ k, (randomBytes n s).2.prng = (afterWords k s).prng := by
  cases hs : s.srcHw with
  | true => exact ⟨0, randomBytes_prng (.inl hs)⟩
  | false => exact ⟨(n + 3) / 4, by rw [randomBytes_of_fallback hs, byteRequestWordCount]⟩

/-- Settles O28: the checks of RAND, and its effect as one write of 64 bytes (`randEffect_eq`). -/
theorem randFillsRandomBuffer : Obligations.RandFillsRandomBuffer := by
  refine ⟨encodedBy_of_row (r := randRow) (by decide) fun w h => lenField_eq w ▸ decodeWord_of_randRow h,
    fun s n => ⟨?notInit, ?tooLong, fun hi hn => ?fills⟩⟩
  case notInit => exact fun hi => endsInError_of_fail (by simp [checksOf, hi])
  case tooLong => exact fun hi hn => endsInError_of_fail (by simp [checksOf, hi, rndCap, hn])
  case fills =>
    have hexec : exec (.rand n) s = .next (randEffect n s).finish := exec_of_pass (by simp [checksOf, hi, rndCap, hn])
    have hlen : ((randomBytes n s).1 ++ zeros (64 - n)).length = 64 := by simp; omega
    rw [randEffect_eq] at hexec
    refine ⟨_, hexec, ?bytes, ?rndLen, ?frame, rfl, randomBytes_prng⟩
    case bytes => exact readBytes_of_mem_eq_writeBytes (s := s) hlen rfl rfl
    case frame => exact sameBytesOutside_of_mem_eq_writeBytes hlen rfl rfl
    case rndLen =>
      show (BitVec.ofNat 7 n).toNat = n
      rw [BitVec.toNat_ofNat]
      omega

end Sys2Proof.Machine
end

section
/-!
PROOFS. REPLY and PROCESS (43_encoder R213, R221): the reply they leave in TXBUF, what else they change, and that the
populated region of a reply has the checksum of the whole (R214).
-/
namespace Sys2Proof.Machine

/-! ### REPLY -/

/-- A build writes inside TXBUF only. -/
theorem sameBytesOutside_buildReply (s : State) : sameBytesOutside 0x100 128 s (buildReply s) := by
  obtain ⟨bs, hlen, h⟩ := buildReply_frame s
  rw [h]
  exact sameBytesOutside_of_mem_eq_writeBytes hlen rfl rfl

/-- `replyEffect` and `finish` touch no byte. -/
theorem readByte_replyEffect_finish (s : State) (a : Nat) :
    (replyEffect s).finish.readByte a = (buildReply s).readByte a :=
  readByte_of_mem (by rw [finish_mem, replyEffect]) (by rw [finish_resets, replyEffect]) a

theorem readBytes_replyEffect_finish {s : State} (hb : s.bannerLen.toNat ≤ 100) :
    (replyEffect s).finish.readBytes 0x100 128 =
      checksummedReply (randomBytes 6 s).1 (messageId s) (bannerBytes s) := by
  rw [readBytes_congr fun _ _ => readByte_replyEffect_finish s _, readBytes_buildReply_eq hb]

/-- Everything REPLY leaves behind but the bytes. -/
theorem replyEffect_finish_eq (s : State) :
    (replyEffect s).finish = { s with
      mem := (replyEffect s).finish.mem, prng := (randomBytes 6 s).2.prng, draws := (randomBytes 6 s).2.draws
      txv := true, done := true, busy := false } := by
  obtain ⟨bs, -, h⟩ := replyEffect_eq s
  simp only [h, State.finish]

theorem sameBytesOutside_replyEffect_finish (s : State) : sameBytesOutside 0x100 128 s (replyEffect s).finish :=
  fun x hx => (readByte_replyEffect_finish s x).trans (sameBytesOutside_buildReply s x hx)

/-- Settles O32: the check of REPLY, and its effect, a build with TXV set. -/
theorem replyBuildsReply : Obligations.ReplyBuildsReply := by
  refine ⟨encodedBy_of_fullMask (r := replyRow) (by decide) rfl rfl, fun s => ⟨fun hi => ?notInit, fun hi =>
    ⟨_, exec_reply_of_initd hi, readBytes_replyEffect_finish, sameBytesOutside_replyEffect_finish s,
      replyEffect_finish_eq s, fun hs => ?hardware⟩⟩⟩
  case notInit => exact endsInError_of_fail (by simp [checksOf, hi])
  case hardware => rw [replyEffect_finish_eq, randomBytes_prng (.inl hs)]

/-! ### The populated region (R214) -/

theorem zeroField_append {B : List Byte} (h : 4 ≤ B.length) (C : List Byte) :
    zeroField (B ++ C) = zeroField B ++ C := by
  rw [zeroField, List.set_append_left _ _ (by omega), List.set_append_left _ _ (by simp; omega), zeroField]

/-- Settles O34: the whole buffer is the populated region and zeros (`take_append_zeros_checksummedReply`), which neither
the zero-field view nor the checksum sees; the field verifies by `builtReplyVerifies`. -/
theorem populatedRegionHasSameChecksum : Obligations.PopulatedRegionHasSameChecksum := by
  intro s hs hb
  obtain ⟨t, ht, hverifies, -⟩ := builtReplyVerifies s hs hb
  have hsplit := take_append_zeros_checksummedReply (length_randomBytes 6 s) (length_messageId s) (bannerBytes s)
  rw [length_bannerBytes, ← readBytes_of_exec_reply hs hb ht, take_readBytes _ _ (by omega)] at hsplit
  refine ⟨t, ht, ?_, hverifies⟩
  rw [← hsplit, zeroField_append (by simp; omega), cksum_append_zeros]

/-! ### PROCESS (R221) -/

/-- An accepted id has 6 bytes (42_decoder R195). -/
theorem length_id_of_accept {D id : List Byte} {flags : Half} {rr ckp : Bool}
    (h : decodeDatagram D = .accept id flags rr ckp) : id.length = 6 := by
  obtain ⟨hlen, -⟩ := flags_of_accept h
  simp only [decodeDatagram] at h
  split_ifs at h
  injection h with hid
  simp [← hid, slice]
  omega

/-- MSGID_HI and MSGID_LO hold an id whole (42_decoder R195, 43_encoder R211). -/
theorem bytes_of_messageId {id : List Byte} (h : id.length = 6) : bytesBE32 (be32 id 0) ++ bytesBE16 (be16 id 4) = id := by
  match id, h with
  | [a, b, c, d, e, f], _ => rw [bytesBE32_be32, bytesBE16_be16]; rfl

/-- PROCESS of a datagram that asks for no reply, by the decode's result. -/
theorem exec_process_of_result {s : State} (hinit : s.initd = true) (hfits : s.rxLen.toNat ≤ Config.rxCap) {d : Decoded}
    (hd : decodeDatagram (s.readBytes 0x8000 s.rxLen.toNat) = d) (hno : ∀ id flags ckp, d ≠ .accept id flags true ckp) :
    exec .process s = .next { applyDecoded d s with txv := false }.finish := by
  rw [exec_process_of_no_request hinit hfits fun id flags ckp h => hno id flags ckp (hd.symm.trans h),
    decodeEffect_of_result hd]

/-- PROCESS of a datagram that asks for a reply: the reply's id is the one just written to MSGID. -/
theorem exec_process_of_request {s : State} (hinit : s.initd = true) (hfits : s.rxLen.toNat ≤ Config.rxCap)
    {id : List Byte} {flags : Half} {ckp : Bool} (hd : decodeDatagram (datagram s) = .accept id flags true ckp) :
    exec .process s = .next (replyEffect (applyDecoded (.accept id flags true ckp) s)).finish := by
  have heffect : processEffect s = replyEffect (applyDecoded (.accept id flags true ckp) s) := by
    simp only [processEffect, hd]
  rw [exec_of_pass (by simp [checksOf, rxLenTooLong, hinit, hfits]), effectOf, heffect]

/-- Settles O36: the two checks in order; a datagram that asks for no reply is decoded only
(`exec_process_of_no_request`); one that does is decoded, and REPLY's effect follows on the decoded state, which draws as
`s` does. -/
theorem processDecodesThenReplies : Obligations.ProcessDecodesThenReplies := by
  refine ⟨encodedBy_of_fullMask (r := processRow) (by decide) rfl rfl,
    fun s => ⟨?notInit, ?tooLong, ?discard, ?noRequest, ?request⟩⟩
  case notInit => exact fun hi => endsInError_of_fail (by simp [checksOf, hi])
  case tooLong => exact fun hi hlen => endsInError_of_fail (by simp [checksOf, hi, rxLenTooLong, hlen])
  case discard => exact fun reason hi hfits hd => exec_process_of_result hi hfits hd (by simp)
  case noRequest => exact fun id flags ckp hi hfits hd => exec_process_of_result hi hfits hd (by simp)
  case request =>
    intro id flags ckp hi hfits hd
    have hid : messageId (applyDecoded (.accept id flags true ckp) s) = id :=
      bytes_of_messageId (length_id_of_accept hd)
    obtain ⟨hbytes, hprng, hdraws⟩ :=
      randomBytes_congr 6 (s := applyDecoded (.accept id flags true ckp) s) (t := s) ⟨rfl, rfl⟩ rfl
    refine ⟨_, exec_process_of_request hi hfits hd, fun hb => ?bytes, ?frame, ?fields⟩
    case bytes =>
      rw [readBytes_replyEffect_finish (by exact hb), hid, hbytes]
      rfl
    case frame => exact sameBytesOutside_replyEffect_finish (applyDecoded (.accept id flags true ckp) s)
    case fields =>
      refine (replyEffect_finish_eq _).trans ?_
      simp only [hprng, hdraws]
      rfl

end Sys2Proof.Machine
end

section
/-!
PROOFS. The registers as the host sees them (10_state R23 to R40): the words they read as, in numbers, and what a write
changes.
-/
namespace Sys2Proof.Machine

/-! ### Words made of bits, in numbers -/

theorem toNat_append_eq {n m : Nat} (x : BitVec n) (y : BitVec m) : (x ++ y).toNat = x.toNat * 2 ^ m + y.toNat := by
  rw [BitVec.toNat_append, ← Nat.shiftLeft_add_eq_or_of_lt y.isLt, Nat.shiftLeft_eq]

theorem toNat_statusWord (s : State) : s.statusWord.toNat =
    s.errcode.code.toNat * 256 + (s.srcHw.toNat * 64 + s.txv.toNat * 32 + s.prng.seeded.toNat * 16 + s.initd.toNat * 8 +
      s.err.toNat * 4 + s.done.toNat * 2 + s.busy.toNat) := by
  rw [State.statusWord, BitVec.toNat_setWidth_of_le (by decide)]
  simp only [toNat_append_eq, BitVec.toNat_ofBool]
  simp
  omega

theorem toNat_irqEnWord (s : State) : s.irqEnWord.toNat = s.doneIe.toNat + 2 * s.errIe.toNat := by
  rw [State.irqEnWord, BitVec.toNat_setWidth_of_le (by decide), toNat_append_eq, BitVec.toNat_ofBool, BitVec.toNat_ofBool]
  omega

theorem toNat_configWord (s : State) : s.configWord.toNat = s.forceMt.toNat := by
  rw [State.configWord, BitVec.toNat_setWidth_of_le (by decide), BitVec.toNat_ofBool]

theorem toNat_paramWord : paramWord.toNat = Config.rxCap + (if Config.hasTrng then 65536 else 0) := by
  have hcap := rxCap_bounds
  unfold paramWord
  generalize Config.rxCap = cap at hcap ⊢
  rw [BitVec.toNat_setWidth_of_le (by decide), toNat_append_eq, BitVec.toNat_ofBool, BitVec.toNat_ofNat]
  cases Config.hasTrng <;> simp <;> omega

theorem toNat_decResultWord (d : DecResult) : d.word.toNat =
    d.acc.toNat + 2 * d.rr.toNat + 4 * d.ckp.toNat + 16 * (reasonCode d.reason).toNat := by
  rw [DecResult.word, BitVec.toNat_setWidth_of_le (by decide)]
  simp only [toNat_append_eq, BitVec.toNat_ofBool]
  simp
  omega

/-- The mask of the low `k` bits is the remainder modulo `2 ^ k`. -/
theorem toNat_and_lowMask (v : Word) {k : Nat} (hk : k ≤ 32) :
    (v &&& BitVec.ofNat 32 (2 ^ k - 1)).toNat = v.toNat % 2 ^ k := by
  have hpow : 2 ^ k ≤ 2 ^ 32 := Nat.pow_le_pow_right (by decide) hk
  rw [BitVec.toNat_and, BitVec.toNat_ofNat, Nat.mod_eq_of_lt (by have := Nat.two_pow_pos k; omega),
    Nat.and_two_pow_sub_one_eq_mod]

theorem setWidth_setWidth_eq_and (v : Word) {k : Nat} (hk : k ≤ 32) :
    (v.setWidth k).setWidth 32 = v &&& BitVec.ofNat 32 (2 ^ k - 1) := by
  apply BitVec.eq_of_toNat_eq
  rw [toNat_and_lowMask v hk, BitVec.toNat_setWidth_of_le hk, BitVec.toNat_setWidth]

/-! ### STATUS (10_state R25) -/

/-- A write to STATUS, bit by bit. -/
theorem acknowledge_eq (v : Word) (s : State) :
    s.acknowledge v = { s with
      done := s.done && !v.getLsbD 1
      txv := s.txv && !v.getLsbD 5
      err := s.err && !v.getLsbD 2
      errcode := if v.getLsbD 2 then .none else s.errcode } := by
  unfold State.acknowledge
  cases v.getLsbD 1 <;> cases v.getLsbD 5 <;> cases v.getLsbD 2 <;> simp

/-- STATUS may be written while a command runs (70 R305). -/
theorem hostWrite_status (v : Word) (s : State) : hostWrite 0x004 v s = s.acknowledge v :=
  (hostWrite_offset .status v s).trans (by simp [writableWhileBusy, writeReg])

/-- Settles O38: each bit by its place in the concatenation, ERRCODE as the part above bit 7 (`toNat_statusWord`), and
the write by `acknowledge_eq`. -/
theorem statusReadsAndClears : Obligations.StatusReadsAndClears := by
  refine ⟨fun s => ⟨?_, ?_, ?_, ?_, ?_, ?_, ?_, ?_, ?code⟩, fun s v => by rw [hostWrite_status, acknowledge_eq]⟩
  case code =>
    have hlow : s.statusWord.toNat / 256 = s.errcode.code.toNat := by
      have h0 := Bool.toNat_le s.busy
      have h1 := Bool.toNat_le s.done
      have h2 := Bool.toNat_le s.err
      have h3 := Bool.toNat_le s.initd
      have h4 := Bool.toNat_le s.prng.seeded
      have h5 := Bool.toNat_le s.txv
      have h6 := Bool.toNat_le s.srcHw
      rw [toNat_statusWord]
      omega
    refine hlow.trans ?_
    cases s.errcode <;> rfl
  all_goals
    simp only [readReg, State.statusWord, BitVec.getLsbD_setWidth, BitVec.getLsbD_append]
    simp

/-! ### CMD (10_state R24) -/

theorem hostWrite_cmd_busy {s : State} (hbusy : s.busy = true) (w : Word) : hostWrite 0x000 w s = s.overrun :=
  (hostWrite_offset .cmd w s).trans (by simp [writableWhileBusy, writeReg, writeCmd, hbusy])

theorem hostRead_cmd (s : State) : hostRead 0x000 s = (some 0, s) :=
  (hostRead_offset .cmd s).trans (by simp [regSettled, readReg])

/-- Settles O40: the two branches of a CMD write, and its read. -/
theorem cmdWriteLatchesOrOverruns : Obligations.CmdWriteLatchesOrOverruns :=
  fun s w => ⟨fun h => hostWrite_cmd_idle h w, fun h => hostWrite_cmd_busy h w, hostRead_cmd s⟩

/-! ### The writable registers -/

/-- A register other than CMD, written while no command runs, reads back as what the write left. -/
theorem hostRead_hostWrite_idle {r : Reg} (hr : r ≠ .cmd) (v : Word) {s : State} (hidle : s.busy = false) :
    (hostRead r.offset (hostWrite r.offset v s)).1 = some (readReg r (writeReg r v s)) := by
  have hbusy : (writeReg r v s).busy = false := by
    cases r <;> simp [writeReg, acknowledge_eq, apply_ite, hidle] at hr ⊢
  rw [hostWrite_idle r v hidle, hostRead_idle r hbusy]

/-- IRQ_EN keeps the two bits it has (10_state R26). -/
theorem irqEnWord_of_write (v : Word) (s : State) :
    State.irqEnWord { s with doneIe := v.getLsbD 0, errIe := v.getLsbD 1 } = v &&& 0x3 := by
  apply BitVec.eq_of_toNat_eq
  rw [toNat_irqEnWord]
  refine Eq.trans ?_ (toNat_and_lowMask v (k := 2) (by decide)).symm
  simp only [BitVec.getLsbD, Nat.toNat_testBit]
  omega

/-- CONFIG keeps the one bit it has, until INIT locks it (10_state R27). -/
theorem configWord_of_write (v : Word) (s : State) :
    State.configWord { s with forceMt := v.getLsbD 0 } = v &&& 0x1 := by
  apply BitVec.eq_of_toNat_eq
  rw [toNat_configWord]
  refine Eq.trans ?_ (toNat_and_lowMask v (k := 1) (by decide)).symm
  simp only [BitVec.getLsbD, Nat.toNat_testBit]
  omega

/-- Settles O41: register by register, the write (`hostWrite_idle`), the read after it (`hostRead_hostWrite_idle`) and
the read in any idle state (`hostRead_idle`). -/
theorem writableRegistersReadBack : Obligations.WritableRegistersReadBack := by
  refine ⟨fun s v hidle => ?writes, fun s v hidle => ?readsBack, fun s hidle => ?reads⟩
  case writes =>
    exact ⟨hostWrite_idle .irqEn v hidle, hostWrite_idle .config v hidle, hostWrite_idle .rxLen v hidle,
      hostWrite_idle .bannerLen v hidle, hostWrite_idle .mtSeed v hidle, hostWrite_idle .msgidHi v hidle,
      hostWrite_idle .msgidLo v hidle⟩
  case readsBack =>
    have hback : ∀ {r : Reg} {w : Word}, r ≠ .cmd → readReg r (writeReg r v s) = w →
        (hostRead r.offset (hostWrite r.offset v s)).1 = some w := fun hr hw => by
      rw [hostRead_hostWrite_idle hr v hidle, hw]
    refine ⟨hback (r := .irqEn) (by decide) (irqEnWord_of_write v s), hback (r := .config) (by decide) ?config,
      hback (r := .rxLen) (by decide) (setWidth_setWidth_eq_and v (by decide)),
      hback (r := .bannerLen) (by decide) ?bannerLen, hback (r := .mtSeed) (by decide) rfl,
      hback (r := .msgidHi) (by decide) rfl, hback (r := .msgidLo) (by decide) (setWidth_setWidth_eq_and v (by decide))⟩
    case config =>
      rw [writeReg, readReg]
      split
      · rfl
      · exact configWord_of_write v s
    case bannerLen =>
      rw [writeReg, readReg]
      split
      · rfl
      · exact setWidth_setWidth_eq_and v (by decide)
  case reads =>
    exact ⟨⟨_, hostRead_idle .irqEn hidle, toNat_irqEnWord s⟩, ⟨_, hostRead_idle .config hidle, toNat_configWord s⟩,
      hostRead_idle .rxLen hidle, hostRead_idle .bannerLen hidle, hostRead_idle .mtSeed hidle,
      hostRead_idle .msgidHi hidle, hostRead_idle .msgidLo hidle⟩

end Sys2Proof.Machine
end

section
/-!
PROOFS. The bus (20_memory, 70_reset_and_hazards R305 and R306): where an offset lies, what an access there does while
the engine is idle and while it is busy, and the breaches of the host's contract.
-/
namespace Sys2Proof.Machine

/-! ### Where an offset lies (20_memory R62) -/

theorem misaligned_eq_false {a : Offset} (h : a.toNat % 4 = 0) : misaligned a = false := by simp [misaligned, h]

theorem toNat_offset_of_getElem? {i : Nat} {r : Reg} (h : Reg.all[i]? = some r) : r.offset.toNat = 4 * i := by
  obtain ⟨hi, rfl⟩ := List.getElem?_eq_some_iff.mp h
  have hi16 : i < 16 := hi
  interval_cases i <;> rfl

/-- An aligned offset that reaches a register is the register's own. -/
theorem eq_offset_of_locate {a : Offset} {r : Reg} (ha : a.toNat % 4 = 0) (h : locate a = .reg r) : a = r.offset := by
  unfold locate at h
  split at h
  · next hr =>
    cases h
    have hplace := toNat_offset_of_getElem? hr
    exact BitVec.eq_of_toNat_eq (by omega)
  · split_ifs at h

/-- An offset in a buffer's window reaches the buffer: the windows do not overlap. -/
theorem locate_of_contains {a : Offset} {b : Buffer} (h : b.contains a.toNat = true) : locate a = .buffer b := by
  have hbase : b.base ≤ a.toNat := (contains_iff.mp h).1
  have hother : ∀ b', b' ≠ b → b'.contains a.toNat = false := fun b' hb' => by
    by_contra hc
    exact hb' (contains_unique (by simpa using hc) h)
  rw [locate_of_high ((show 0x40 ≤ b.base by cases b <;> decide).trans hbase)]
  cases b with
  | txbuf | banner | rndbuf => simp [h, hother]
  | rxbuf =>
    have hmt : ¬ a.toNat < 0x19C0 := by simp [Buffer.base] at hbase; omega
    simp [h, hother, hmt]

theorem contains_of_locate {a : Offset} {b : Buffer} (ha : a.toNat % 4 = 0) (h : locate a = .buffer b) :
    b.contains a.toNat = true := locate_buffer_contains (misaligned_eq_false ha) h le_rfl (by omega)

theorem locate_mtWord {a : Offset} {i : Nat} (hi : i < 624) (ha : a.toNat = 0x1000 + 4 * i) :
    locate a = .mtWord ⟨i, hi⟩ := by
  have hout : ∀ b : Buffer, b.contains a.toNat = false := fun b => by
    rw [← Bool.not_eq_true, contains_iff]
    cases b <;> simp [Buffer.base, Buffer.size, txSize, bannerCap, rndCap] <;> omega
  rw [locate_of_high (by omega)]
  simp only [hout, Bool.false_eq_true, if_false]
  rw [dif_pos (by omega)]
  congr
  omega

theorem locate_unmapped {a : Offset} (hhigh : 0x40 ≤ a.toNat) (hb : ∀ b : Buffer, b.contains a.toNat = false)
    (hmt : ¬ (0x1000 ≤ a.toNat ∧ a.toNat < 0x19C0)) : locate a = .unmapped := by
  rw [locate_of_high hhigh]
  simp only [hb, Bool.false_eq_true, if_false, dif_neg hmt]

/-! ### An aligned access -/

section
variable {s : State} {a : Offset}

theorem hostRead_of_idle (ha : a.toNat % 4 = 0) (hidle : s.busy = false) : hostRead a s = (some (readRegion a s), s) := by
  simp [hostRead, misaligned_eq_false ha, hidle]

theorem hostWrite_of_idle (ha : a.toNat % 4 = 0) (hidle : s.busy = false) (v : Word) :
    hostWrite a v s = writeRegion a v s := by
  simp [hostWrite, misaligned_eq_false ha, hidle]

theorem hostRead_of_settled (ha : a.toNat % 4 = 0) (h : settled (locate a) = true) :
    hostRead a s = (some (readRegion a s), s) := by
  simp [hostRead, misaligned_eq_false ha, h]

theorem hostRead_of_unsettled (ha : a.toNat % 4 = 0) (hbusy : s.busy = true) (h : settled (locate a) = false) :
    hostRead a s = (some (Config.busyRead s.draws), { s with draws := s.draws + 1 }) := by
  simp [hostRead, misaligned_eq_false ha, hbusy, h, State.countDraws]

theorem readRegion_buffer {b : Buffer} (h : locate a = .buffer b) :
    readRegion a s = be32 (s.readBytes a.toNat 4) 0 := by
  rw [readRegion, h]
  rfl

end

/-! ### Breaches of the contract (20_memory R63, 60_exceptions R270) -/

/-- Settles O42: the branches of `hostRead` and `hostWrite`; what may be written while busy is the three registers. -/
theorem contractBreachesAreOnlyRecorded : Obligations.ContractBreachesAreOnlyRecorded := by
  refine ⟨fun s a ha => ?misaligned, fun s a v ha hbusy hcmd hstatus hirq => ?busy, fun s v hbusy =>
    ⟨hostWrite_cmd_busy hbusy v, hostWrite_status v s, ?irqEn⟩⟩
  case misaligned =>
    have hm : misaligned a = true := by simpa [misaligned] using ha
    exact ⟨if_pos hm, fun v => if_pos hm⟩
  case busy =>
    have hno : writableWhileBusy (locate a) = false := by
      cases hl : locate a with
      | reg r =>
        have hr := eq_offset_of_locate ha hl
        cases r with
        | cmd => exact absurd hr hcmd
        | status => exact absurd hr hstatus
        | irqEn => exact absurd hr hirq
        | _ => rfl
      | buffer b => rfl
      | mtWord i => rfl
      | unmapped => rfl
    simp [hostWrite, misaligned_eq_false ha, hbusy, hno, State.recordFault]
  case irqEn => exact (hostWrite_offset .irqEn v s).trans (by simp [writableWhileBusy, writeReg])

/-! ### Unmapped offsets (20_memory R64) -/

/-- Settles O43: an offset in a gap of the map lies in no window. -/
theorem unmappedOffsetsReadZero : Obligations.UnmappedOffsetsReadZero := by
  intro s a hidle ha hgap
  have hcap := rxCap_bounds
  have hout : ∀ b : Buffer, b.contains a.toNat = false := fun b => by
    rw [← Bool.not_eq_true, contains_iff]
    cases b <;> simp only [Buffer.base, Buffer.size, txSize, bannerCap, rndCap] <;> omega
  have hl : locate a = .unmapped := locate_unmapped (by omega) hout (by omega)
  rw [hostRead_of_idle ha hidle, readRegion, hl]
  refine ⟨rfl, fun v => ?_⟩
  rw [hostWrite_of_idle ha hidle, writeRegion, hl]

/-! ### The RXBUF and BANNER windows (20_memory R65, R66, R68) -/

theorem toNat_getElem_bytesBE32 (v : Word) {j : Nat} (hj : j < (bytesBE32 v).length) :
    ((bytesBE32 v)[j]).toNat = v.toNat / 2 ^ (24 - 8 * j) % 256 := by
  have hj4 : j < 4 := hj
  interval_cases j <;> exact toNat_byteOf v _

theorem readBytes_writeWord (s : State) (a : Nat) (v : Word) : (s.writeWord a v).readBytes a 4 = bytesBE32 v :=
  readBytes_writeBytes s a (bytesBE32 v)

/-- What a word written to a window leaves (20_memory R65, R66). -/
theorem hostWrite_window {s : State} {a : Offset} {v : Word} {b : Buffer} (hidle : s.busy = false)
    (ha : a.toNat % 4 = 0) (hl : locate a = .buffer b) (hw : hostWrite a v s = s.writeWord a.toNat v) :
    ∃ t, hostWrite a v s = t ∧ t = { s with mem := t.mem } ∧
      (∀ j, j < 4 → (t.readByte (a.toNat + j)).toNat = v.toNat / 2 ^ (24 - 8 * j) % 256) ∧
      sameBytesOutside a.toNat 4 s t ∧ hostRead a t = (some v, t) := by
  refine ⟨_, hw, rfl, fun j hj => ?byte, fun x hx => readByte_writeBytes_outside s hx, ?readBack⟩
  case byte => exact (congrArg BitVec.toNat (readByte_writeBytes_inside s hj)).trans (toNat_getElem_bytesBE32 v hj)
  case readBack =>
    rw [hostRead_of_idle ha (by exact hidle), readRegion_buffer hl, readBytes_writeWord,
      ← List.append_nil (bytesBE32 v), be32_bytesBE32]

/-- Settles O44: both windows read as their bytes; RXBUF is always writable, BANNER until INIT (`hostWrite_window`). -/
theorem windowsPackBigEndian : Obligations.WindowsPackBigEndian := by
  intro s a v hidle ha hwindow
  have hcases : locate a = .buffer .rxbuf ∧ 0x8000 ≤ a.toNat ∨ locate a = .buffer .banner ∧ a.toNat < 0x8000 := by
    rcases hwindow with hrx | hbanner
    · exact .inl ⟨locate_of_contains (contains_iff.mpr hrx), hrx.1⟩
    · refine .inr ⟨locate_of_contains (contains_iff.mpr ?_), by omega⟩
      simp only [Buffer.base, Buffer.size, bannerCap]
      omega
  rcases hcases with ⟨hl, hrx⟩ | ⟨hl, hbanner⟩
  · have hw : hostWrite a v s = s.writeWord a.toNat v := by rw [hostWrite_of_idle ha hidle, writeRegion, hl]
    exact ⟨by rw [hostRead_of_idle ha hidle, readRegion_buffer hl], fun hlt => absurd hrx (by omega),
      fun _ => hostWrite_window hidle ha hl hw⟩
  · have hw : hostWrite a v s = if s.initd then s else s.writeWord a.toNat v := by
      rw [hostWrite_of_idle ha hidle, writeRegion, hl]
    refine ⟨by rw [hostRead_of_idle ha hidle, readRegion_buffer hl], fun _ hi => by rw [hw, if_pos hi], fun hopen => ?_⟩
    have hi : s.initd = false := hopen.resolve_left (by omega)
    exact hostWrite_window hidle ha hl (by rw [hw, if_neg (by simp [hi])])

/-! ### Read-only state (20_memory R67, R69, R70; 10_state R40) -/

/-- Settles O45: the TXBUF, RNDBUF and MT_STATE windows by where they lie, the read-only registers one by one. -/
theorem readOnlyStateIgnoresWrites : Obligations.ReadOnlyStateIgnoresWrites := by
  refine ⟨fun s a hidle ha => ⟨fun hwindow => ?buffers, fun i hi hmt => ?mtState, fun hreg v => ?registers⟩,
    fun s hidle => ⟨⟨_, hostRead_idle .param hidle, toNat_paramWord⟩, hostRead_idle .ckResult hidle,
      hostRead_idle .mtOut hidle, ⟨_, hostRead_idle .mtCursor hidle, ?cursor⟩, hostRead_idle .rndLen hidle,
      ⟨_, hostRead_idle .decResult hidle, ?decResult⟩, hostRead_idle .decFlags hidle⟩⟩
  case buffers =>
    have hcases : locate a = .buffer .txbuf ∨ locate a = .buffer .rndbuf := by
      refine hwindow.imp (fun h => locate_of_contains (contains_iff.mpr ?_))
        fun h => locate_of_contains (contains_iff.mpr ?_)
      all_goals
        simp only [Buffer.base, Buffer.size, txSize, rndCap]
        omega
    rcases hcases with hl | hl
    all_goals exact ⟨fun v => by rw [hostWrite_of_idle ha hidle, writeRegion, hl],
      by rw [hostRead_of_idle ha hidle, readRegion_buffer hl]⟩
  case mtState =>
    have hl := locate_mtWord hi hmt
    exact ⟨fun v => by rw [hostWrite_of_idle ha hidle, writeRegion, hl],
      by rw [hostRead_of_idle ha hidle, readRegion, hl]; rfl⟩
  case registers =>
    simp only [List.mem_cons, List.not_mem_nil, or_false] at hreg
    rcases hreg with rfl | rfl | rfl | rfl | rfl | rfl | rfl
    · exact hostWrite_idle .param v hidle
    · exact hostWrite_idle .ckResult v hidle
    · exact hostWrite_idle .mtOut v hidle
    · exact hostWrite_idle .mtCursor v hidle
    · exact hostWrite_idle .rndLen v hidle
    · exact hostWrite_idle .decResult v hidle
    · exact hostWrite_idle .decFlags v hidle
  case cursor =>
    show (BitVec.ofNat 32 s.prng.cursor.val).toNat = s.prng.cursor.val
    rw [BitVec.toNat_ofNat]
    omega
  case decResult =>
    refine (toNat_decResultWord s.decResult).trans ?_
    congr 2
    cases s.decResult.reason with
    | none => rfl
    | some reason => cases reason <;> rfl

/-! ### Reads while busy (70 R306) -/

theorem offset_of_regSettled {r : Reg} (h : regSettled r = true) :
    r.offset ∈ ([0x000, 0x004, 0x008, 0x00C, 0x010, 0x014, 0x018, 0x020] : List Offset) := by
  revert h
  cases r <;> decide

/-- Settles O46: an offset outside the two lists reaches nothing that is settled, whatever it reaches. -/
theorem busyReadsOfCommandStateAreDraws : Obligations.BusyReadsOfCommandStateAreDraws := by
  refine fun s a hbusy ha => ⟨fun hsettled => hostRead_of_settled ha ?settled, fun hcmd => hcmd ▸ hostRead_cmd s,
    fun hreg hbanner hrx => hostRead_of_unsettled ha hbusy ?unsettled⟩
  case settled =>
    rcases hsettled with hreg | hbanner | hrx
    · simp only [List.mem_cons, List.not_mem_nil, or_false] at hreg
      rcases hreg with rfl | rfl | rfl | rfl | rfl | rfl | rfl <;> rfl
    · rw [locate_of_contains (b := .banner) (contains_iff.mpr ?_)]
      · rfl
      · simp only [Buffer.base, Buffer.size, bannerCap]
        omega
    · rw [locate_of_contains (b := .rxbuf) (contains_iff.mpr hrx)]
      rfl
  case unsettled =>
    cases hl : locate a with
    | reg r =>
      exact Bool.eq_false_iff.mpr fun h => hreg (eq_offset_of_locate ha hl ▸ offset_of_regSettled h)
    | buffer b =>
      have hin := contains_iff.mp (contains_of_locate ha hl)
      cases b with
      | rxbuf => exact absurd hin hrx
      | banner =>
        simp only [Buffer.base, Buffer.size, bannerCap] at hin
        exact absurd ⟨hin.1, by omega⟩ hbanner
      | txbuf | rndbuf => rfl
    | mtWord i => rfl
    | unmapped => rfl

end Sys2Proof.Machine
end

section
/-!
PROOFS. The host's statements (30_encoding R97), the state after a reset (70_reset_and_hazards R300, R301), and where the
groups of LOADB go (30_encoding R98).
-/
namespace Sys2Proof.Machine

/-! ### The host program (30_encoding R97) -/

theorem writeReg_host (r : Reg) (v : Word) (s : State) : (writeReg r v s).host = s.host := by
  cases r <;> simp [writeReg, writeCmd, acknowledge_eq, apply_ite]

@[simp] theorem hostWrite_host (a : Offset) (v : Word) (s : State) : (hostWrite a v s).host = s.host := by
  rcases hostWrite_effects a v s with ⟨r, h⟩ | ⟨r, -, h⟩ | ⟨b, -, -, -, -, h⟩ | h <;> rw [h]
  · exact recordFault_host r s
  · exact writeReg_host r v s
  · exact writeWord_host s _ v

theorem hostRead_host (a : Offset) (s : State) : (hostRead a s).2.host = s.host := by
  rcases hostRead_cases a s with ⟨-, h⟩ | ⟨-, -, -, h⟩ | ⟨-, -, h⟩ <;> rw [h]
  · exact recordFault_host _ s
  · exact countDraws_host 1 s

/-- Settles O47: the branches of `hostStep`; no access touches the host's own state (`hostWrite_host`,
`hostRead_host`). -/
theorem hostStatementsActAsStated : Obligations.HostStatementsActAsStated := by
  refine fun s a mask val v w target t => ⟨fun h => ?wr, fun h hread => ?rd, fun h hread => ?jf, fun h => ?j, fun h => ?halt⟩
  case wr => simp only [hostStep, h, State.hostGoto, hostWrite_host]
  case rd =>
    have hhost : t.host = s.host := by simpa [hread] using hostRead_host a s
    simp only [hostStep, h, hread, State.hostGoto, State.hostTake, hhost, Option.getD_some]
  case jf =>
    have hhost : t.host = s.host := by simpa [hread] using hostRead_host a s
    simp only [hostStep, h, hread, State.hostGoto, State.hostTake, hhost, Option.getD_some]
  case j => simp only [hostStep, h, State.hostGoto]
  case halt => simp only [hostStep, h]

/-! ### Reset (70_reset_and_hazards R300, R301) -/

theorem readByte_atReset (n : Nat) (host : HostAgent) (sched : List Move) (draws a : Nat) :
    (State.atReset n host sched draws).readByte a = Config.powerOnByte n a := rfl

/-- The registers that read 0 right after reset (10_state R23). -/
def regsZeroAtReset : List Reg := Reg.all.filter fun r => r ≠ .param ∧ r ≠ .mtCursor

theorem readReg_reset : ∀ r ∈ regsZeroAtReset, readReg r State.reset = 0 := by decide

/-- Settles O52: each register as an idle engine reads it (`hostRead_idle`). -/
theorem resetValues : Obligations.ResetValues := by
  refine ⟨fun a ha => ?zero, hostRead_idle .mtCursor rfl, ⟨_, hostRead_idle .param rfl, toNat_paramWord⟩, rfl, rfl, rfl,
    rfl, fun a => rfl, fun i hi => ?words⟩
  case zero =>
    obtain ⟨r, hr, rfl⟩ := List.mem_map.mp (show a ∈ regsZeroAtReset.map Reg.offset from ha)
    rw [hostRead_idle r rfl, readReg_reset r hr]
  case words => simp [State.reset, State.atReset, Prng.atReset]

/-- Settles O53: the step is `State.atReset` of the next reset number, whose every field is written out. -/
theorem resetReleaseRestoresResetValues : Obligations.ResetReleaseRestoresResetValues := by
  intro s hreset
  refine ⟨State.atReset (s.resets + 1) s.host s.sched.tail s.draws, by rw [step, hreset]; rfl, ?status, rfl,
    rfl, rfl, rfl, rfl, rfl, rfl, readByte_atReset _ _ _ _⟩
  refine BitVec.eq_of_toNat_eq ?_
  simp [toNat_statusWord, State.atReset, Prng.atReset, ErrCode.code]

/-! ### LOADB (30_encoding R98) -/

/-- Settles O57: group `j` is written at `win + i + 4 * j` as a 16-bit offset (`getElem?_loadWords`). -/
theorem loadbOffsetsWrap : Obligations.LoadbOffsetsWrap := by
  intro position pos win i bytes hi
  refine ⟨loadWords (win + i) (groupWords bytes), by rw [AsmLine.expand, if_pos hi], fun j hj =>
    ⟨BitVec.ofNat 16 (win + i + 4 * j), ?group, BitVec.toNat_ofNat _ 16⟩⟩
  rw [getElem?_loadWords, getElem?_groupWords hj, ← be32_append_zeros (bytes.drop (4 * j)) 3]
  rfl

end Sys2Proof.Machine
end

section
/-!
PROOFS. The invariant of the machine, operation by operation: it holds after every reset, and every host access, every
error and every effect keeps it.
-/
namespace Sys2Proof.Machine

theorem inv_atReset (n : Nat) (host : HostAgent) (sched : List Move) (draws : Nat) :
    (State.atReset n host sched draws).Inv := by
  constructor <;> simp [State.atReset, Prng.atReset, Memory.wf]

/-- Settles O54: the first reset is a reset. -/
theorem invariantHoldsAtReset : Obligations.InvariantHoldsAtReset := inv_atReset 0 _ _ _

/-! ### The shared operations -/

theorem inv_raiseError {s : State} (h : s.Inv) {c : ErrCode} (hc : c ≠ .none) : (s.raiseError c).Inv :=
  { h with errcode := by simp [hc] }

theorem inv_recordFault {s : State} (h : s.Inv) (r : HostFault) : (s.recordFault r).Inv := { h with }

theorem inv_finish {s : State} (h : s.Inv) : s.finish.Inv := { h with }

/-- A write inside one buffer lists bytes of that buffer only (20_memory R71). -/
theorem inv_writeBytes {s : State} (h : s.Inv) {b : Buffer} {a : Nat} {bs : List Byte}
    (hin : ∀ x, a ≤ x → x < a + bs.length → b.contains x = true) : (s.writeBytes a bs).Inv :=
  { h with
    memoryForm := wf_writeBytes bs h.memoryForm a
    memoryPlace := fun c hc =>
      (mem_writeBytes hc).elim (fun hnew => ⟨b, hin c.1 hnew.1 hnew.2⟩) (fun hold => h.memoryPlace c hold) }

/-! ### Host writes -/

theorem inv_acknowledge {s : State} (h : s.Inv) (v : Word) : (s.acknowledge v).Inv := by
  rw [acknowledge_eq]
  refine { h with errcode := ?_ }
  cases v.getLsbD 2
  · simpa using h.errcode
  · simp

theorem inv_writeCmd {s : State} (h : s.Inv) (v : Word) : (writeCmd v s).Inv := by
  unfold writeCmd
  split
  · exact { h with errcode := by simp }
  · exact { h with }

/-- A register the invariant speaks of is CONFIG or BANNER_LEN, which INIT locks, or STATUS. -/
theorem inv_writeReg {s : State} (h : s.Inv) (r : Reg) (v : Word) : (writeReg r v s).Inv := by
  cases r with
  | cmd => exact inv_writeCmd h v
  | status => exact inv_acknowledge h v
  | config =>
    rw [writeReg]
    split
    · exact h
    · next hi => exact { h with sourceLatched := by simpa [hi] using h.sourceLatched }
  | bannerLen =>
    rw [writeReg]
    split
    · exact h
    · next hi => exact { h with bannerFits := fun hc => absurd hc hi }
  | irqEn | rxLen | mtSeed | msgidHi | msgidLo => exact { h with }
  | param | ckResult | mtOut | mtCursor | rndLen | decResult | decFlags => exact h

theorem inv_hostWrite {s : State} (h : s.Inv) (a : Offset) (v : Word) : (hostWrite a v s).Inv := by
  rcases hostWrite_effects a v s with ⟨r, hw⟩ | ⟨r, -, hw⟩ | ⟨b, -, -, hm, hl, hw⟩ | hw <;> rw [hw]
  · exact inv_recordFault h r
  · exact inv_writeReg h r v
  · exact inv_writeBytes h fun x => locate_buffer_contains hm hl
  · exact h

theorem inv_hostStep {s : State} (h : s.Inv) : (hostStep s).Inv := by
  obtain ⟨t, host, d, hstep, ht⟩ := hostStep_effects s
  have htInv : t.Inv := by
    rcases ht with rfl | ⟨r, rfl⟩ | ⟨a, v, rfl⟩
    · exact h
    · exact inv_recordFault h r
    · exact inv_hostWrite h a v
  rw [hstep]
  exact { htInv with }

/-! ### Effects -/

/-- Once the MT is seeded its cursor is free. -/
theorem inv_seeded {s : State} (h : s.Inv) {p : Prng} (hp : p.seeded = true) : State.Inv { s with prng := p } :=
  { h with cursorUnseeded := by simp [hp] }

/-- A request of no byte leaves the generator as it is; any other seeds it (41_prng R156, R161). -/
theorem randomBytes_seeds (n : Nat) (s : State) :
    (randomBytes n s).2.prng = s.prng ∨ (randomBytes n s).2.prng.seeded = true := by
  obtain ⟨k, hk⟩ := randomBytes_prng_afterWords n s
  rw [hk]
  cases k with
  | zero => exact .inl rfl
  | succ k => exact .inr (by rw [afterWords_succ]; exact mtNext_seeded _)

theorem cursor_randomBytes {s : State} (h : s.Inv) (n : Nat) :
    (randomBytes n s).2.prng.seeded = false → (randomBytes n s).2.prng.cursor.val = 624 := by
  rcases randomBytes_seeds n s with hsame | hseeded
  · rw [hsame]
    exact h.cursorUnseeded
  · simp [hseeded]

/-- What the invariant says of DEC_RESULT beside DEC_FLAGS (10_state R36, R37). -/
def DecResult.consistent (d : DecResult) (flags : Half) : Prop :=
  (d.acc = true → d.reason = none) ∧ (d.acc = false → d.rr = false ∧ d.ckp = false) ∧
    (d.acc = true → d.rr = flags.getLsbD 0)

/-- A decode gives RR the value of bit 0 of the flags it accepts (42_decoder R195). -/
theorem consistent_applyDecoded (D : List Byte) (s : State) :
    (applyDecoded (decodeDatagram D) s).decResult.consistent (applyDecoded (decodeDatagram D) s).decFlags := by
  cases hd : decodeDatagram D with
  | discard reason => simp [applyDecoded, DecResult.consistent]
  | accept id flags rr ckp =>
    obtain ⟨-, hflags, hrr⟩ := flags_of_accept hd
    simp [applyDecoded, DecResult.consistent, hflags, hrr]

/-- A buffer's own bytes, from its base on. -/
theorem contains_of_size_le {b : Buffer} {n : Nat} (hn : n ≤ b.size) (x : Nat) (hlo : b.base ≤ x)
    (hhi : x < b.base + n) : b.contains x = true := contains_iff.mpr ⟨hlo, by omega⟩

theorem inv_effectOf {i : Instr} {s : State} (h : s.Inv) (hpass : firstFailure (checksOf i s) = none) :
    (effectOf i s).Inv := by
  rcases effectOf_forms i s hpass with ⟨-, he⟩ | ⟨-, -, hb, he⟩ | ⟨sel, zf, n, -, he⟩ | ⟨-, he⟩ | ⟨-, he⟩ |
    ⟨n, bs, -, hn, hbs, -, he⟩ | ⟨D, v, -, -, he⟩ | ⟨bs, -, hbs, he⟩ | ⟨bs, D, -, hbs, he⟩ <;> rw [he]
  · exact h
  · exact { h with bannerFits := fun _ => hb, sourceLatched := by simp [selectsHardware, Bool.and_comm] }
  · exact { h with }
  · exact inv_seeded h (mtSeed_seeded _)
  · exact { h with cursorUnseeded := by simp }
  · have hmem := inv_writeBytes (bs := bs) h (contains_of_size_le (b := .rndbuf) hbs.le)
    exact { hmem with
      rndLen := by rw [BitVec.toNat_ofNat]; omega
      cursorUnseeded := cursor_randomBytes h n }
  · obtain ⟨hreason, haccepted, hrequest⟩ := consistent_applyDecoded D s
    exact { h with reason := hreason, accepted := haccepted, replyRequest := hrequest }
  · have hmem := inv_writeBytes (bs := bs) h (contains_of_size_le (b := .txbuf) hbs.le)
    exact { hmem with cursorUnseeded := cursor_randomBytes h 6 }
  · have hmem := inv_writeBytes (bs := bs) h (contains_of_size_le (b := .txbuf) hbs.le)
    obtain ⟨hreason, haccepted, hrequest⟩ := consistent_applyDecoded D s
    exact { hmem with
      cursorUnseeded := cursor_randomBytes h 6
      reason := hreason, accepted := haccepted, replyRequest := hrequest }

/-! ### The step -/

theorem inv_popMove {s : State} (h : s.Inv) : (popMove s).Inv := { h with }

/-- Settles O55: a reset gives a reset state (`inv_atReset`); any other step is a host step, an error, or an effect and
`finish` (`step_next_cases`), and each keeps the invariant. -/
theorem everyStepKeepsInvariant : Obligations.EveryStepKeepsInvariant := by
  intro s t h hstep
  have hpop := inv_popMove h
  by_cases hreset : nextMove s = .reset
  · rw [step, hreset] at hstep
    cases hstep
    exact inv_atReset _ _ _ _
  rcases step_next_cases hreset hstep with ⟨-, rfl⟩ | ⟨-, rfl | ⟨c, hc, rfl⟩ | ⟨i, -, -, hpass, rfl⟩⟩
  · exact inv_hostStep hpop
  · exact hpop
  · exact inv_raiseError hpop hc
  · exact inv_finish (inv_effectOf hpop hpass)

end Sys2Proof.Machine
end

section
/-!
PROOFS. The rules over every step that is not a reset: what a host move keeps, what a command writes, and from these the
frozen configuration (10_state R44), the writers of each result (R31 to R42), the recorded faults (R46) and `seeded` (R43).
-/
namespace Sys2Proof.Machine

/-! ### What a host move keeps -/

/-- What no host access changes; CONFIG, BANNER_LEN and BANNER after INIT only; at most one fault recorded. -/
structure KeptByHost (s t : State) : Prop where
  initd : t.initd = s.initd
  srcHw : t.srcHw = s.srcHw
  ckResult : t.ckResult = s.ckResult
  mtOut : t.mtOut = s.mtOut
  rndLen : t.rndLen = s.rndLen
  decResult : t.decResult = s.decResult
  decFlags : t.decFlags = s.decFlags
  prng : t.prng = s.prng
  config : s.initd = true → t.forceMt = s.forceMt ∧ t.bannerLen = s.bannerLen
  fault : t.fault = s.fault ∨ ∃ r, t.fault = s.fault ++ [r]
  txbuf : sameBuffer .txbuf s t
  rndbuf : sameBuffer .rndbuf s t
  banner : s.initd = true → sameBuffer .banner s t

theorem keptByHost_refl (s : State) : KeptByHost s s where
  initd := rfl
  srcHw := rfl
  ckResult := rfl
  mtOut := rfl
  rndLen := rfl
  decResult := rfl
  decFlags := rfl
  prng := rfl
  config := fun _ => ⟨rfl, rfl⟩
  fault := .inl rfl
  txbuf := fun _ _ => rfl
  rndbuf := fun _ _ => rfl
  banner := fun _ _ _ => rfl

theorem keptByHost_writeReg (r : Reg) (v : Word) (s : State) : KeptByHost s (writeReg r v s) := by
  have h := keptByHost_refl s
  cases r with
  | cmd =>
    rw [writeReg, writeCmd]
    split
    · exact { h with }
    · exact { h with }
  | status =>
    rw [writeReg, acknowledge_eq]
    exact { h with }
  | config | bannerLen =>
    rw [writeReg]
    split
    · exact h
    · next hi => exact { h with config := fun hc => absurd hc hi }
  | irqEn | rxLen | mtSeed | msgidHi | msgidLo => exact { h with }
  | param | ckResult | mtOut | mtCursor | rndLen | decResult | decFlags => exact h

theorem keptByHost_hostWrite (a : Offset) (v : Word) (s : State) : KeptByHost s (hostWrite a v s) := by
  have h := keptByHost_refl s
  rcases hostWrite_effects a v s with ⟨r, hw⟩ | ⟨r, -, hw⟩ | ⟨b, hb, -, hm, hl, hw⟩ | hw <;> rw [hw]
  · exact { h with fault := .inr ⟨r, rfl⟩ }
  · exact keptByHost_writeReg r v s
  · have hother : ∀ b', b ≠ b' → sameBuffer b' s (s.writeWord a.toNat v) := fun _ => sameBuffer_writeWord s v hm hl
    rcases hb with ⟨rfl, hi⟩ | rfl
    · exact { h with
        txbuf := hother _ (by decide), rndbuf := hother _ (by decide), banner := fun hc => absurd hc (by simp [hi]) }
    · exact { h with
        txbuf := hother _ (by decide), rndbuf := hother _ (by decide), banner := fun _ => hother _ (by decide) }
  · exact h

theorem keptByHost_hostStep (s : State) : KeptByHost s (hostStep (popMove s)) := by
  obtain ⟨t, host, d, hstep, ht⟩ := hostStep_effects (popMove s)
  have hkept : KeptByHost (popMove s) t := by
    rcases ht with rfl | ⟨r, rfl⟩ | ⟨a, v, rfl⟩
    · exact keptByHost_refl _
    · exact { keptByHost_refl (popMove s) with fault := .inr ⟨r, rfl⟩ }
    · exact keptByHost_hostWrite a v _
  rw [hstep]
  exact { hkept with }

/-! ### What a command writes -/

/-- What the command may have written from `s` to `t`: each result by its own commands, no configuration register, no
fault, no byte of BANNER or RXBUF. -/
structure WrittenBy (i : Instr) (s t : State) : Prop where
  latch : t.initd = s.initd ∧ t.srcHw = s.srcHw ∨ i = .init ∧ s.initd = false ∧ t.initd = true
  ckResult : t.ckResult = s.ckResult ∨ ∃ sel zf n, i = .cksum sel zf n
  mtOut : t.mtOut = s.mtOut ∨ i = .next
  random : t.rndLen = s.rndLen ∧ sameBuffer .rndbuf s t ∨ ∃ n, i = .rand n
  decoded : (t.decResult = s.decResult ∧ t.decFlags = s.decFlags ∧ t.msgidHi = s.msgidHi ∧ t.msgidLo = s.msgidLo) ∨
    i = .decode ∨ i = .process
  prng : t.prng = s.prng ∨ i = .seed ∨ i = .next ∨ (∃ n, i = .rand n) ∨ i = .reply ∨ i = .process
  txbuf : sameBuffer .txbuf s t ∨ i = .reply ∨ i = .process
  config : t.forceMt = s.forceMt ∧ t.bannerLen = s.bannerLen
  fault : t.fault = s.fault
  banner : sameBuffer .banner s t
  rxbuf : sameBuffer .rxbuf s t

/-- A command may write nothing. -/
theorem writtenBy_refl (i : Instr) (s : State) : WrittenBy i s s where
  latch := .inl ⟨rfl, rfl⟩
  ckResult := .inl rfl
  mtOut := .inl rfl
  random := .inl ⟨rfl, fun _ _ => rfl⟩
  decoded := .inl ⟨rfl, rfl, rfl, rfl⟩
  prng := .inl rfl
  txbuf := .inl fun _ _ => rfl
  config := ⟨rfl, rfl⟩
  fault := rfl
  banner := fun _ _ => rfl
  rxbuf := fun _ _ => rfl

/-- For every `p`, so that no check ever evaluates a seeding. -/
theorem writtenBy_prng {i : Instr} {s : State}
    (hi : i = .seed ∨ i = .next ∨ (∃ n, i = .rand n) ∨ i = .reply ∨ i = .process) (p : Prng) :
    WrittenBy i s { s with prng := p } := { writtenBy_refl i s with prng := .inr hi }

/-- As `sameBuffer_writeBytes`, whatever else the state changes. -/
theorem sameBuffer_of_mem_eq_writeBytes {s t : State} {b b' : Buffer} {bs : List Byte} (hlen : bs.length ≤ b.size)
    (hb : b ≠ b') (hm : t.mem = Memory.writeBytes s.mem b.base bs) (hr : t.resets = s.resets) : sameBuffer b' s t :=
  fun x hx => (readByte_of_mem (s := s.writeBytes b.base bs) hm hr x).trans (sameBuffer_writeBytes s hlen hb x hx)

theorem writtenBy_effectOf {i : Instr} {s : State} (hpass : firstFailure (checksOf i s) = none) :
    WrittenBy i s (effectOf i s) := by
  have h := writtenBy_refl i s
  rcases effectOf_forms i s hpass with ⟨-, he⟩ | ⟨hi, hinit, -, he⟩ | ⟨sel, zf, n, hi, he⟩ | ⟨hi, he⟩ | ⟨hi, he⟩ |
    ⟨n, bs, hi, -, hbs, -, he⟩ | ⟨D, v, hi, -, he⟩ | ⟨bs, hi, hbs, he⟩ | ⟨bs, D, hi, hbs, he⟩ <;> rw [he]
  · exact h
  · exact { h with latch := .inr ⟨hi, hinit, rfl⟩ }
  · exact { h with ckResult := .inr ⟨sel, zf, n, hi⟩ }
  · exact writtenBy_prng (.inl hi) _
  · exact { h with mtOut := .inr hi, prng := .inr (.inr (.inl hi)) }
  · exact { h with
      random := .inr ⟨n, hi⟩
      prng := .inr (.inr (.inr (.inl ⟨n, hi⟩)))
      txbuf := .inl (sameBuffer_of_mem_eq_writeBytes (b := .rndbuf) hbs.le (by decide) rfl rfl)
      banner := sameBuffer_of_mem_eq_writeBytes (b := .rndbuf) hbs.le (by decide) rfl rfl
      rxbuf := sameBuffer_of_mem_eq_writeBytes (b := .rndbuf) hbs.le (by decide) rfl rfl }
  · exact { h with decoded := .inr hi }
  · exact { h with
      random := .inl ⟨rfl, sameBuffer_of_mem_eq_writeBytes (b := .txbuf) hbs.le (by decide) rfl rfl⟩
      prng := .inr (.inr (.inr (.inr (.inl hi))))
      txbuf := .inr (.inl hi)
      banner := sameBuffer_of_mem_eq_writeBytes (b := .txbuf) hbs.le (by decide) rfl rfl
      rxbuf := sameBuffer_of_mem_eq_writeBytes (b := .txbuf) hbs.le (by decide) rfl rfl }
  · exact { h with
      random := .inl ⟨rfl, sameBuffer_of_mem_eq_writeBytes (b := .txbuf) hbs.le (by decide) rfl rfl⟩
      decoded := .inr (.inr hi)
      prng := .inr (.inr (.inr (.inr (.inr hi))))
      txbuf := .inr (.inr hi)
      banner := sameBuffer_of_mem_eq_writeBytes (b := .txbuf) hbs.le (by decide) rfl rfl
      rxbuf := sameBuffer_of_mem_eq_writeBytes (b := .txbuf) hbs.le (by decide) rfl rfl }

/-! ### What a step writes -/

/-- A step but reset is the host's, or writes what a command writes: the pending one, whose `finish` sets DONE, or, when
the engine is idle or ends in an error, what NOP writes. -/
theorem step_writes {s t : State} (hreset : nextMove s ≠ .reset) (hstep : step s = .next t) :
    (nextMove s = .host ∧ KeptByHost s t) ∨
      ∃ i, (i ≠ .nop → s.engineTurn ∧ decodeWord s.pending = .ok i ∧ t.done = true) ∧ WrittenBy i s t := by
  have hnop : WrittenBy .nop s s := writtenBy_refl .nop s
  rcases step_next_cases hreset hstep with ⟨hmove, rfl⟩ | ⟨hmove, rfl | ⟨c, -, rfl⟩ | ⟨i, hbusy, hi, hpass, rfl⟩⟩
  · exact .inl ⟨hmove, keptByHost_hostStep s⟩
  · exact .inr ⟨.nop, fun h => absurd rfl h, { hnop with }⟩
  · exact .inr ⟨.nop, fun h => absurd rfl h, { hnop with }⟩
  · have hwritten := writtenBy_effectOf hpass
    exact .inr ⟨i, fun _ => ⟨⟨hbusy, hmove⟩, hi, rfl⟩, { hwritten with }⟩

/-- Settles O48: a host access keeps the configuration after INIT, a command always does, and only INIT latches. -/
theorem configurationIsFrozenAfterInit : Obligations.ConfigurationIsFrozenAfterInit := by
  intro s t hreset hstep
  rcases step_writes hreset hstep with ⟨-, hkept⟩ | ⟨i, hexec, hw⟩
  · refine ⟨fun hi => ⟨hkept.initd.trans hi, hkept.srcHw, (hkept.config hi).1, (hkept.config hi).2, hkept.banner hi⟩,
      fun hne => ?_⟩
    exact absurd ⟨hkept.initd, hkept.srcHw⟩ (not_and_or.mpr hne)
  · refine ⟨fun hi => ?frozen, fun hne => ?latched⟩
    case frozen =>
      obtain ⟨hinitd, hsrc⟩ := hw.latch.resolve_right (by simp [hi])
      exact ⟨hinitd.trans hi, hsrc, hw.config.1, hw.config.2, hw.banner⟩
    case latched =>
      obtain ⟨rfl, hbefore, hafter⟩ := hw.latch.resolve_left (not_and_or.mpr hne)
      obtain ⟨hturn, hdecode, hdone⟩ := hexec (by simp)
      exact ⟨hturn, hdecode, hbefore, hafter, hdone⟩

/-- Settles O50: a host access records at most one fault, a command none. -/
theorem recordedFaultsStay : Obligations.RecordedFaultsStay := by
  intro s t hreset hstep
  rcases step_writes hreset hstep with ⟨-, hkept⟩ | ⟨i, -, hw⟩
  · exact hkept.fault
  · exact .inl hw.fault

/-- Settles O51: a change the host cannot make (`KeptByHost`) is made by a command that may write it (`WrittenBy`). -/
theorem eachResultHasItsWriter : Obligations.EachResultHasItsWriter := by
  intro s t hreset hstep
  rcases step_writes hreset hstep with ⟨hmove, hkept⟩ | ⟨i, hexec, hw⟩
  · refine ⟨absurd hkept.ckResult, absurd hkept.mtOut, fun hne => ?_, fun hne => ?_, fun _ => .inl hmove,
      absurd hkept.prng, absurd hkept.txbuf, fun hne => ⟨hmove, ?_⟩, fun _ => hmove⟩
    · exact absurd ⟨hkept.rndLen, hkept.rndbuf⟩ (not_and_or.mpr hne)
    · exact absurd ⟨hkept.decResult, hkept.decFlags⟩ (not_and_or.mpr hne)
    · exact Bool.eq_false_iff.mpr fun hi => hne (hkept.banner hi)
  · have hpending : i ≠ .nop → s.engineTurn ∧ decodeWord s.pending = .ok i := fun h => ⟨(hexec h).1, (hexec h).2.1⟩
    have hdecoding : i = .decode ∨ i = .process →
        s.engineTurn ∧ (decodeWord s.pending = .ok .decode ∨ decodeWord s.pending = .ok .process) := by
      rintro (rfl | rfl)
      · exact (hpending (by simp)).imp_right .inl
      · exact (hpending (by simp)).imp_right .inr
    refine ⟨fun hne => ?ckResult, fun hne => ?mtOut, fun hne => ?random, fun hne => ?decoded, fun hne => ?msgid,
      fun hne => ?prng, fun hne => ?txbuf, absurd hw.banner, absurd hw.rxbuf⟩
    case ckResult =>
      obtain ⟨sel, zf, n, rfl⟩ := hw.ckResult.resolve_left hne
      exact ⟨sel, zf, n, hpending (by simp)⟩
    case mtOut =>
      obtain rfl := hw.mtOut.resolve_left hne
      exact hpending (by simp)
    case random =>
      obtain ⟨n, rfl⟩ := hw.random.resolve_left (not_and_or.mpr hne)
      exact ⟨n, hpending (by simp)⟩
    case decoded => exact hdecoding (hw.decoded.resolve_left fun ⟨hr, hf, _⟩ => not_and_or.mpr hne ⟨hr, hf⟩)
    case msgid => exact .inr (hdecoding (hw.decoded.resolve_left fun ⟨_, _, hm⟩ => not_and_or.mpr hne hm))
    case prng =>
      have hi := hw.prng.resolve_left hne
      obtain ⟨hturn, hdecode⟩ := hpending (by rintro rfl; simp at hi)
      exact ⟨hturn, i, hdecode, hi⟩
    case txbuf =>
      rcases hw.txbuf.resolve_left hne with rfl | rfl
      · exact (hpending (by simp)).imp_right .inl
      · exact (hpending (by simp)).imp_right .inr

/-! ### Only a seeding sets `seeded` (10_state R43) -/

/-- A command seeds from MT_SEED, or extracts a number of words. -/
theorem effectOf_prng {i : Instr} {s : State} (hpass : firstFailure (checksOf i s) = none) :
    (effectOf i s).prng = mtSeed s.mtSeed ∨ ∃ k, (effectOf i s).prng = (afterWords k s).prng := by
  rcases effectOf_forms i s hpass with ⟨-, he⟩ | ⟨-, -, -, he⟩ | ⟨sel, zf, n, -, he⟩ | ⟨-, he⟩ | ⟨-, he⟩ |
    ⟨n, bs, -, -, -, -, he⟩ | ⟨D, v, -, -, he⟩ | ⟨bs, -, -, he⟩ | ⟨bs, D, -, -, he⟩ <;> rw [he]
  · exact .inr ⟨0, rfl⟩
  · exact .inr ⟨0, rfl⟩
  · exact .inr ⟨0, rfl⟩
  · exact .inl rfl
  · exact .inr ⟨1, rfl⟩
  · exact .inr (randomBytes_prng_afterWords n s)
  · exact .inr ⟨0, rfl⟩
  · exact .inr (randomBytes_prng_afterWords 6 s)
  · exact .inr (randomBytes_prng_afterWords 6 s)

theorem afterWords_seeded {s : State} (h : s.prng.seeded = true) (k : Nat) : (afterWords k s).prng.seeded = true := by
  cases k with
  | zero => exact h
  | succ k => rw [afterWords_succ, mtNext_seeded]

/-- A seeded generator draws no time, so it depends on the PRNG state alone. -/
theorem afterWords_prng_congr {s t : State} (h : s.prng = t.prng) (hs : s.prng.seeded = true) (k : Nat) :
    (afterWords k s).prng = (afterWords k t).prng := by
  induction k generalizing s t with
  | zero => exact h
  | succ k ih =>
    refine ih ?_ (mtNext_seeded s)
    rw [mtNext_of_seeded hs, mtNext_of_seeded (h ▸ hs), h]

/-- A generator whose next extraction is that of the seeded state `p` goes on as one that holds `p`. -/
theorem afterWords_of_next {s u : State} {p : Prng} (hnext : (mtNext s).2.prng = (mtExtract p).2)
    (hp : p.seeded = true) (hu : u.prng = p) (k : Nat) : (afterWords (k + 1) s).prng = (afterWords (k + 1) u).prng := by
  subst hu
  refine afterWords_prng_congr ?_ (mtNext_seeded s) k
  rw [hnext, mtNext_of_seeded hp]

/-- A step but reset seeds from MT_SEED, or extracts a number of words. -/
theorem step_prng {s t : State} (hreset : nextMove s ≠ .reset) (hstep : step s = .next t) :
    t.prng = mtSeed s.mtSeed ∨ ∃ k, t.prng = (afterWords k (popMove s)).prng := by
  rcases step_next_cases hreset hstep with ⟨-, rfl⟩ | ⟨-, rfl | ⟨c, -, rfl⟩ | ⟨i, -, -, hpass, rfl⟩⟩
  · exact .inr ⟨0, (keptByHost_hostStep s).prng⟩
  · exact .inr ⟨0, rfl⟩
  · exact .inr ⟨0, rfl⟩
  · exact effectOf_prng hpass

/-- Settles O49: a step seeds from MT_SEED or extracts (`step_prng`); no extraction leaves an unseeded generator unseeded,
and the first one seeds it from the draw of `time_now` (`afterWords_of_next`). -/
theorem seededIsSetBySeedingOnly : Obligations.SeededIsSetBySeedingOnly := by
  intro s t hreset hstep
  rcases step_prng hreset hstep with hseed | ⟨k, hk⟩
  · exact ⟨fun _ => by rw [hseed, mtSeed_seeded], fun _ _ => .inl hseed⟩
  · refine ⟨fun h => hk ▸ afterWords_seeded (s := popMove s) h k, fun h ht => .inr ?_⟩
    cases k with
    | zero =>
      rw [hk, afterWords, popMove_prng, h] at ht
      cases ht
    | succ k =>
      have hnext : (mtNext (popMove s)).2.prng = (mtExtract (mtSeed (Config.timeNow s.draws))).2 := by
        rw [mtNext_of_unseeded (s := popMove s) h, popMove_draws]
      exact ⟨k, hk.trans (afterWords_of_next
        (u := { s with prng := mtSeed (Config.timeNow s.draws) }) hnext (mtSeed_seeded _) rfl k)⟩

end Sys2Proof.Machine
end
